-- ==== Sys2Proof/Word.lean ====
section
/-!
DEFINITION. The words of the piano voice engine (PVE): a command word and a read-port word have 32 bits,
a table byte has 8 (20_memory.md R60, 30_encoding.md R81). Bits are numbered from 0 at the least significant
end (00_scope.md R10).
-/

namespace Sys2Proof

/-- A command word or a read-port word: 32 bits, parallel (20_memory.md R64). -/
abbrev Word := BitVec 32

/-- One byte of a table or of a byte-serial carrier of a word. -/
abbrev Byte := BitVec 8

end Sys2Proof
end

