-- ==== Sys2Proof/Syntax.lean ====
section
/-!
DEFINITION. The operations of the PVE: one constructor of `Instr` per row of spec/opcode_table.json, with its operands
at the widths 30_encoding.md R82 gives them; the input ports of one clock cycle (R80); and the lines of the textual form
(R88, R89).
-/

namespace Sys2Proof

/-- The nine commands and the two strobes (30_encoding.md R83, R87). -/
inductive Instr where
  /-- NOP (40_voice_commands.md R120) -/
  | nop
  /-- INIT (R131) -/
  | init
  /-- NOTE_ON n (R101) -/
  | noteOn (n : BitVec 7)
  /-- NOTE_OFF n (R108) -/
  | noteOff (n : BitVec 7)
  /-- ALL_OFF (R112) -/
  | allOff
  /-- SET_FM hr, depth (R114) -/
  | setFm (hr : BitVec 8) (depth : BitVec 4)
  /-- SET_MVOL l (R116) -/
  | setMvol (l : BitVec 4)
  /-- BIP d (R118) -/
  | bip (d : BitVec 16)
  /-- CLR_ERR (R133) -/
  | clrErr
  /-- TICK, the strobe `tick_strobe` (45_envelope_tick.md R147) -/
  | tick
  /-- SAMPLE, the strobe `sample_strobe` (46_sample_datapath.md R180) -/
  | sample
deriving DecidableEq, Repr

/-- Why a command word is illegal (30_encoding.md R85, 60_exceptions.md R202). -/
inductive CmdErr where
  /-- an opcode at or above 0x09 -/
  | reservedOpcode
  /-- a nonzero bit in a must-be-zero operand position -/
  | reservedOperand
  /-- a note number of 128 to 255 -/
  | noteRange
deriving DecidableEq, Repr

/-- The input ports as one rising edge of `clk` samples them (30_encoding.md R80). -/
structure PortCycle where
  rst : Bool
  cmdValid : Bool
  cmdData : Word
  tickStrobe : Bool
  sampleStrobe : Bool
  rdAddr : BitVec 8
deriving DecidableEq, Repr

/-- A cycle in which nothing is asserted; `rd_addr` carries 0. -/
def PortCycle.quiet : PortCycle :=
  { rst := false, cmdValid := false, cmdData := 0, tickStrobe := false, sampleStrobe := false, rdAddr := 0 }

/-- One line of the textual form of 30_encoding.md R88, or one pseudo-instruction of R89. Operands are the numbers as
written, before any check of their range. -/
inductive AsmLine where
  | nop
  | init
  | noteOn (n : Nat)
  | noteOff (n : Nat)
  | allOff
  | setFm (hr depth : Nat)
  | setMvol (l : Nat)
  | bip (d : Nat)
  | clrErr
  /-- `.word w` -/
  | word (w : Nat)
  | tick
  | sample
  | reset
  /-- `READ a` -/
  | read (a : Nat)
  /-- `BIP_OFF` -/
  | bipOff
  /-- `FM_OFF` -/
  | fmOff
  /-- `UNMUTE` -/
  | unmute
  /-- `TICKS k` -/
  | ticks (k : Nat)
  /-- `SAMPLES k` -/
  | samples (k : Nat)
deriving DecidableEq, Repr

end Sys2Proof
end

