-- ==== Sys2Proof/WellFormed.lean ====
section
/-!
DEFINITION. Which written lines an assembler accepts: "An assembler refuses an operand outside its range" (30_encoding.md
R88). An `Instr` needs no check of its own: its operand types have exactly the widths of R82, so no term of it is
ill-formed. A configuration's check is `Config.Legal`.
-/

namespace Sys2Proof

/-- The ranges of 30_encoding.md R88. A `.word` takes any 32-bit value, a READ any 8-bit address, and a repeat count has
no bound. -/
def AsmLine.wf : AsmLine → Bool
  | .nop => true
  | .init => true
  | .noteOn n => n ≤ 127
  | .noteOff n => n ≤ 127
  | .allOff => true
  | .setFm hr depth => hr ≤ 255 && depth ≤ 15
  | .setMvol l => l ≤ 15
  | .bip d => d ≤ 65535
  | .clrErr => true
  | .word w => w < 2 ^ 32
  | .tick => true
  | .sample => true
  | .reset => true
  | .read a => a ≤ 255
  | .bipOff => true
  | .fmOff => true
  | .unmute => true
  | .ticks _ => true
  | .samples _ => true

end Sys2Proof
end

