-- ==== Sys2Proof/Decode.lean ====
section
/-!
DEFINITION. The decoder of 30_encoding.md R85, total on any word and rejecting by the error's name; then the encoder,
from the rows of R84; then the decoding of one port cycle (R87, 60_exceptions.md R206), the byte-serial carrier (20_memory.md
R64), and the assembler of R88 and R89.
-/

namespace Sys2Proof

/-- The nine opcodes of 30_encoding.md R83. -/
inductive Opcode where
  | nop
  | init
  | noteOn
  | noteOff
  | allOff
  | setFm
  | setMvol
  | bip
  | clrErr
deriving DecidableEq, Repr

/-- `opc` = w[31:24] (30_encoding.md R81). -/
def opcField (w : Word) : BitVec 8 := w.extractLsb' 24 8

/-- The opcode map of 30_encoding.md R83: 0x09 to 0xFF are reserved. -/
def Opcode.ofField (f : BitVec 8) : Option Opcode :=
  match f.toNat with
  | 0 => some .nop
  | 1 => some .init
  | 2 => some .noteOn
  | 3 => some .noteOff
  | 4 => some .allOff
  | 5 => some .setFm
  | 6 => some .setMvol
  | 7 => some .bip
  | 8 => some .clrErr
  | _ => none

/-- The "match" column of 30_encoding.md R84. -/
def Opcode.rowMatch : Opcode → Word
  | .nop => 0x00000000#32
  | .init => 0x01000000#32
  | .noteOn => 0x02000000#32
  | .noteOff => 0x03000000#32
  | .allOff => 0x04000000#32
  | .setFm => 0x05000000#32
  | .setMvol => 0x06000000#32
  | .bip => 0x07000000#32
  | .clrErr => 0x08000000#32

/-- The "mask" column of 30_encoding.md R84. -/
def Opcode.rowMask : Opcode → Word
  | .nop => 0xFFFFFFFF#32
  | .init => 0xFFFFFFFF#32
  | .noteOn => 0xFFFFFF80#32
  | .noteOff => 0xFFFFFF80#32
  | .allOff => 0xFFFFFFFF#32
  | .setFm => 0xFFFFF000#32
  | .setMvol => 0xFFFFFFF0#32
  | .bip => 0xFFFF0000#32
  | .clrErr => 0xFFFFFFFF#32

/-- Whether the operand is a note number, the case of check 3 (30_encoding.md R85). -/
def Opcode.takesNote : Opcode → Bool
  | .noteOn => true
  | .noteOff => true
  | _ => false

/-- The operand bits that check 2 of 30_encoding.md R85 requires to be 0: the bits of w[23:0] outside the row's variable
bits, and for NOTE_ON and NOTE_OFF bits [23:8] only. -/
def Opcode.reservedBits (o : Opcode) : Word :=
  if o.takesNote then 0x00FFFF00#32 else o.rowMask &&& 0x00FFFFFF#32

/-- The command of a row with its operands taken straight from their bits (30_encoding.md R82). -/
def Opcode.instr (o : Opcode) (w : Word) : Instr :=
  match o with
  | .nop => .nop
  | .init => .init
  | .noteOn => .noteOn (w.extractLsb' 0 7)
  | .noteOff => .noteOff (w.extractLsb' 0 7)
  | .allOff => .allOff
  | .setFm => .setFm (w.extractLsb' 0 8) (w.extractLsb' 8 4)
  | .setMvol => .setMvol (w.extractLsb' 0 4)
  | .bip => .bip (w.extractLsb' 0 16)
  | .clrErr => .clrErr

/-- Decoding a word takes the first check that applies (30_encoding.md R85). -/
def decodeWord (w : Word) : Except CmdErr Instr :=
  match Opcode.ofField (opcField w) with
  | none => .error .reservedOpcode
  | some o =>
    if w &&& o.reservedBits ≠ 0#32 then .error .reservedOperand
    else if o.takesNote && w.getLsbD 7 then .error .noteRange
    else .ok (o.instr w)

/-- The error codes of 60_exceptions.md R202. -/
def CmdErr.code : CmdErr → BitVec 4
  | .reservedOpcode => 1#4
  | .reservedOperand => 2#4
  | .noteRange => 3#4

/-- The word of a command, from the rows of 30_encoding.md R84; TICK and SAMPLE have none (R87). -/
def encodeWord : Instr → Option Word
  | .nop => some Opcode.nop.rowMatch
  | .init => some Opcode.init.rowMatch
  | .noteOn n => some (Opcode.noteOn.rowMatch ||| n.setWidth 32)
  | .noteOff n => some (Opcode.noteOff.rowMatch ||| n.setWidth 32)
  | .allOff => some Opcode.allOff.rowMatch
  | .setFm hr depth => some (Opcode.setFm.rowMatch ||| (depth ++ hr).setWidth 32)
  | .setMvol l => some (Opcode.setMvol.rowMatch ||| l.setWidth 32)
  | .bip d => some (Opcode.bip.rowMatch ||| d.setWidth 32)
  | .clrErr => some Opcode.clrErr.rowMatch
  | .tick => none
  | .sample => none

/-- A cycle with `cmd_valid = 1` and this word, and nothing else (30_encoding.md R80). -/
def PortCycle.command (w : Word) : PortCycle := { PortCycle.quiet with cmdValid := true, cmdData := w }

/-- The port cycle that gives the block one operation: a command word, or a strobe (30_encoding.md R87). -/
def encode (i : Instr) : PortCycle :=
  { PortCycle.quiet with
    cmdValid := (encodeWord i).isSome
    cmdData := (encodeWord i).getD 0
    tickStrobe := decide (i = .tick)
    sampleStrobe := decide (i = .sample) }

/-- The operations of one cycle in the order they are applied: SAMPLE, TICK, CMD (60_exceptions.md R206). A cycle with
`rst = 1` ignores all of them (70_reset_and_hazards.md R221). -/
def decodeCycle (c : PortCycle) : List (Except CmdErr Instr) :=
  if c.rst then []
  else
    (if c.sampleStrobe then [.ok .sample] else []) ++ (if c.tickStrobe then [.ok .tick] else []) ++
      (if c.cmdValid then [decodeWord c.cmdData] else [])

/-- A word from the four bytes of a byte-serial carrier, byte 0 first: byte 0 is bits [7:0] (20_memory.md R64). -/
def wordOfBytes (b0 b1 b2 b3 : Byte) : Word := b3 ++ b2 ++ b1 ++ b0

/-- The four bytes of a word in the order a byte-serial carrier sends them (20_memory.md R64). -/
def bytesOfWord (w : Word) : List Byte :=
  [w.extractLsb' 0 8, w.extractLsb' 8 8, w.extractLsb' 16 8, w.extractLsb' 24 8]

/-- The first word of a byte stream and what is left; none while fewer than four bytes have arrived, since "the word takes
effect only when all four bytes have arrived" (20_memory.md R64). -/
def takeWord : List Byte → Option (Word × List Byte)
  | b0 :: b1 :: b2 :: b3 :: rest => some (wordOfBytes b0 b1 b2 b3, rest)
  | _ => none

/-- The decoder on bytes: the command of the first four, or the reason it is illegal; none while the word is incomplete. -/
def decodeBytes (bs : List Byte) : Option (Except CmdErr Instr × List Byte) :=
  (takeWord bs).map fun p => (decodeWord p.1, p.2)

/-- What the decoder reads from an instruction of `nbits` bits `w` as spec/opcode_table.json numbers them, laid out as a
byte-serial carrier sends the word; bits above `nbits` are 0. A command has 32 bits, so a longer one is none (log entry 15). -/
def decodeTableWord (nbits w : Nat) : Option Instr :=
  if nbits ≤ 32 then
    match decodeBytes (bytesOfWord (BitVec.ofNat 32 (w % 2 ^ nbits))) with
    | some (.ok i, _) => some i
    | _ => none
  else none

/-- The operation a single-operation line of 30_encoding.md R88 denotes; the pseudo-instructions of R89 that expand to one
command are that command. -/
def AsmLine.instr? : AsmLine → Option Instr
  | .nop => some .nop
  | .init => some .init
  | .noteOn n => some (.noteOn (BitVec.ofNat 7 n))
  | .noteOff n => some (.noteOff (BitVec.ofNat 7 n))
  | .allOff => some .allOff
  | .setFm hr depth => some (.setFm (BitVec.ofNat 8 hr) (BitVec.ofNat 4 depth))
  | .setMvol l => some (.setMvol (BitVec.ofNat 4 l))
  | .bip d => some (.bip (BitVec.ofNat 16 d))
  | .clrErr => some .clrErr
  | .tick => some .tick
  | .sample => some .sample
  | .bipOff => some (.bip 0)
  | .fmOff => some (.setFm 0 0)
  | .unmute => some (.setMvol 0)
  | .word _ => none
  | .reset => none
  | .read _ => none
  | .ticks _ => none
  | .samples _ => none

/-- The port cycles a line stands for, or none where the assembler refuses the line (30_encoding.md R88, R89). -/
def AsmLine.assemble (l : AsmLine) : Option (List PortCycle) :=
  if l.wf then
    match l with
    | .word w => some [PortCycle.command (BitVec.ofNat 32 w)]
    | .reset => some [{ PortCycle.quiet with rst := true }]
    | .read a => some [{ PortCycle.quiet with rdAddr := BitVec.ofNat 8 a }]
    | .ticks k => some (List.replicate k (encode .tick))
    | .samples k => some (List.replicate k (encode .sample))
    | l => l.instr?.map fun i => [encode i]
  else none

end Sys2Proof
end

