-- ==== Sys2Proof/Config.lean ====
section
/-!
DEFINITION. What one instance of the PVE fixes: the parameters of 00_scope.md R8 with their legal ranges, the three
read-only tables of 20_memory.md R60 to R63, the reference configuration RC0, and the one free value of the model.
A configuration is plain data; one outside the legal ranges describes no instance and `step` refuses it.
-/

namespace Sys2Proof

/-- The synthesis kind of every voice of one instance (00_scope.md R3). -/
inductive VoiceKind where
  | sine
  | fm
  | wavetable
deriving DecidableEq, Repr

/-- What becomes of a level outside the output range (00_scope.md R8, 46_sample_datapath.md R177). -/
inductive Overflow where
  | saturate
  | wrap
deriving DecidableEq, Repr

/-- The four authored constants of one envelope: attack, decay and release amounts per tick, and the sustain level
(45_envelope_tick.md R140). -/
structure EnvRates where
  a : Nat
  d : Nat
  s : Nat
  r : Nat
deriving DecidableEq, Repr

/-- The rates an instance may have (45_envelope_tick.md R149). -/
def EnvRates.Legal (e : EnvRates) (maxv : Nat) : Prop :=
  (1 ≤ e.a ∧ e.a ≤ 255) ∧ (1 ≤ e.d ∧ e.d ≤ 255) ∧ (1 ≤ e.r ∧ e.r ≤ 255) ∧ e.s ≤ maxv
deriving Decidable

/-- The canonical form of a read-only byte array kept as address and byte pairs: addresses strictly rising, and no
entry for a byte that reads 0, which is what an address without an entry reads as (log entry 12). -/
def Memory.wf : List Host.Cell → Bool
  | [] => true
  | [c] => c.2 != 0#8
  | c :: c' :: m => c.2 != 0#8 && decide (c.1 < c'.1) && Memory.wf (c' :: m)

/-- The build-time parameters of 00_scope.md R8. PHASE_W, IDX_SHIFT, SPOS_W and SPOS_FRAC have one legal value each and
are the widths of the state's fields; ENV_SHIFT and OUT_OFFSET are fixed by MAXV and OUT_W and are functions below. -/
structure Config where
  /-- VOICE_KIND -/
  voiceKind : VoiceKind
  /-- N_VOICES, the number of slots -/
  nVoices : Nat
  /-- SINE_TABLE: 256 signed bytes (20_memory.md R61) -/
  sineTable : Vector Byte 256
  /-- SEMI_TABLE: 12 step bases (20_memory.md R63) -/
  semiTable : Vector (BitVec 16) 12
  /-- MAXV -/
  maxv : Nat
  /-- ENV_CARRIER -/
  envCarrier : EnvRates
  /-- ENV_MOD -/
  envMod : EnvRates
  /-- HR_FRAC -/
  hrFrac : Nat
  /-- FM_HR_RESET -/
  fmHrReset : Nat
  /-- FM_DEPTH_RESET -/
  fmDepthReset : Nat
  /-- WT_DATA as a canonical list of address and byte pairs (20_memory.md R62, log entry 12) -/
  wtData : List Host.Cell
  /-- WT_LEN, in bytes -/
  wtLen : Nat
  /-- LOOP_START -/
  loopStart : Nat
  /-- LOOP_END -/
  loopEnd : Nat
  /-- LEVEL_MAX -/
  levelMax : Nat
  /-- WT_DECAY -/
  wtDecay : Nat
  /-- BIP_STEP -/
  bipStep : Nat
  /-- BIP_SHIFT -/
  bipShift : Nat
  /-- OUT_W -/
  outW : Nat
  /-- OUT_OVERFLOW -/
  outOverflow : Overflow
deriving DecidableEq, Repr

/-- ENV_SHIFT = log2(MAXV + 1) (00_scope.md R8). -/
def Config.envShift (c : Config) : Nat := Nat.log2 (c.maxv + 1)

/-- OUT_OFFSET = 2^(OUT_W - 1) (00_scope.md R8). -/
def Config.outOffset (c : Config) : Nat := 2 ^ (c.outW - 1)

/-- The sample ROM as 20_memory.md R62 has it: WT_LEN bytes, 1 to 2^24, in canonical form, and a loop inside them. -/
def Config.RomLegal (c : Config) : Prop :=
  (1 ≤ c.wtLen ∧ c.wtLen ≤ 2 ^ 24) ∧ (c.loopStart < c.loopEnd ∧ c.loopEnd ≤ c.wtLen) ∧
    Memory.wf c.wtData = true ∧ c.wtData.all (fun x => decide (x.1 < c.wtLen)) = true
deriving Decidable

/-- Every constraint 00_scope.md R8 puts on a configuration. -/
def Config.Legal (c : Config) : Prop :=
  (1 ≤ c.nVoices ∧ c.nVoices ≤ 15) ∧ (c.maxv = 127 ∨ c.maxv = 255) ∧
    (c.envCarrier.Legal c.maxv ∧ c.envMod.Legal c.maxv) ∧
    (c.hrFrac ≤ 7 ∧ c.fmHrReset ≤ 255 ∧ c.fmDepthReset ≤ 15) ∧ c.RomLegal ∧
    (1 ≤ c.levelMax ∧ c.levelMax ≤ c.maxv) ∧ (1 ≤ c.wtDecay ∧ c.wtDecay ≤ 255) ∧
    (1 ≤ c.bipStep ∧ c.bipStep ≤ 65535) ∧ c.bipShift ≤ 7 ∧
    (c.outW = 8 ∨ c.outW = 9 ∨ c.outW = 10)
deriving Decidable

/-- FREE VALUE (DESIGN CHOICE, safe, log entry 4). What the 24-bit register `loop_end` holds after a NOTE_ON of an
instance whose LOOP_END is 2^24, which 00_scope.md R8 allows and 24 bits cannot hold: 40_voice_commands.md R103 writes
LOOP_END there and no rule says what remains. The argument numbers the draws; nothing is known of the value.
`Machine.loopEndReg` keeps the bound that 10_state.md R30 (d) sets. -/
opaque Config.freeLoopEnd : Nat → BitVec 24

/-- RC0's SINE_TABLE, entry 0 first, as listed in 20_memory.md R61. -/
def Config.rc0SineRows : List Int :=
  [0, 3, 6, 9, 12, 16, 19, 22, 25, 28, 31, 34, 37, 40, 43, 46] ++
  [49, 51, 54, 57, 60, 63, 65, 68, 71, 73, 76, 78, 81, 83, 85, 88] ++
  [90, 92, 94, 96, 98, 100, 102, 104, 106, 107, 109, 111, 112, 113, 115, 116] ++
  [117, 118, 120, 121, 122, 122, 123, 124, 125, 125, 126, 126, 126, 127, 127, 127] ++
  [127, 127, 127, 127, 126, 126, 126, 125, 125, 124, 123, 122, 122, 121, 120, 118] ++
  [117, 116, 115, 113, 112, 111, 109, 107, 106, 104, 102, 100, 98, 96, 94, 92] ++
  [90, 88, 85, 83, 81, 78, 76, 73, 71, 68, 65, 63, 60, 57, 54, 51] ++
  [49, 46, 43, 40, 37, 34, 31, 28, 25, 22, 19, 16, 12, 9, 6, 3] ++
  [0, -3, -6, -9, -12, -16, -19, -22, -25, -28, -31, -34, -37, -40, -43, -46] ++
  [-49, -51, -54, -57, -60, -63, -65, -68, -71, -73, -76, -78, -81, -83, -85, -88] ++
  [-90, -92, -94, -96, -98, -100, -102, -104, -106, -107, -109, -111, -112, -113, -115, -116] ++
  [-117, -118, -120, -121, -122, -122, -123, -124, -125, -125, -126, -126, -126, -127, -127, -127] ++
  [-127, -127, -127, -127, -126, -126, -126, -125, -125, -124, -123, -122, -122, -121, -120, -118] ++
  [-117, -116, -115, -113, -112, -111, -109, -107, -106, -104, -102, -100, -98, -96, -94, -92] ++
  [-90, -88, -85, -83, -81, -78, -76, -73, -71, -68, -65, -63, -60, -57, -54, -51] ++
  [-49, -46, -43, -40, -37, -34, -31, -28, -25, -22, -19, -16, -12, -9, -6, -3]

/-- RC0's SINE_TABLE (20_memory.md R61). -/
def Config.rc0Sine : Vector Byte 256 := 
  ⟨(Config.rc0SineRows.map (BitVec.ofInt 8)).toArray, by decide +kernel⟩

/-- RC0's SEMI_TABLE (20_memory.md R63). -/
def Config.rc0Semi : Vector (BitVec 16) 12 :=
  ⟨([34, 36, 38, 41, 43, 46, 48, 51, 54, 58, 61, 65].map (BitVec.ofNat 16)).toArray, by rfl⟩

/-- The reference configuration RC0 of 00_scope.md R8 for one voice kind. R8 gives the sample ROM "per test": it is the
eight bytes 00 40 7F 40 00 C0 81 C0 with loop 2 to 6 of 95_test_vectors.md (log entry 2). -/
def Config.rc0 (k : VoiceKind) : Config :=
  { voiceKind := k
    nVoices := 4
    sineTable := Config.rc0Sine
    semiTable := Config.rc0Semi
    maxv := 255
    envCarrier := ⟨64, 8, 160, 32⟩
    envMod := ⟨32, 4, 96, 16⟩
    hrFrac := 0
    fmHrReset := 1
    fmDepthReset := 8
    wtData := [(1, 0x40#8), (2, 0x7F#8), (3, 0x40#8), (5, 0xC0#8), (6, 0x81#8), (7, 0xC0#8)]
    wtLen := 8
    loopStart := 2
    loopEnd := 6
    levelMax := 255
    wtDecay := 64
    bipStep := 0x1000
    bipShift := 1
    outW := 8
    outOverflow := .saturate }

end Sys2Proof
end

