-- ==== Sys2Proof/Machine/State.lean ====
section
/-!
DEFINITION. The state of the PVE: the voice slots and global registers of 10_state.md, as plain data, with the reset values
of R55; and the reasons a step can stop. Three fields are the model's own and are marked so.
-/

namespace Sys2Proof.Machine

/-- The states of an envelope (10_state.md R25). The codes 5 to 7 are never held and have no constructor (log entry 13). -/
inductive EnvState where
  | attack
  | decay
  | sustain
  | release
  | idle
deriving DecidableEq, Repr

/-- One envelope: its state and its amplitude `vel` (10_state.md R25). -/
structure Env where
  state : EnvState
  vel : BitVec 8
deriving DecidableEq, Repr

/-- One voice slot (10_state.md R21 to R28). -/
structure Voice where
  /-- 0 means free (R21) -/
  note : BitVec 8
  /-- Q8.8 phase increment per sample (R23) -/
  step : BitVec 16
  /-- Q8.8 phase (R24) -/
  phase : BitVec 16
  /-- the carrier envelope (R25) -/
  env : Env
  modStep : BitVec 16
  modPhase : BitVec 16
  modEnv : Env
  /-- the depth shift captured at note-on (R26) -/
  modDepth : BitVec 4
  /-- byte offset in bits [31:8], fraction in bits [7:0] (R27) -/
  samplePos : BitVec 32
  sampleStep : BitVec 32
  loopStart : BitVec 24
  loopEnd : BitVec 24
  /-- the wavetable level (R28) -/
  level : BitVec 8
  /-- set once the linear decay has begun (R28) -/
  rel : Bool
deriving DecidableEq, Repr

/-- A slot with the reset values of 10_state.md R55. -/
def Voice.reset : Voice :=
  { note := 0#8, step := 0#16, phase := 0#16, env := ⟨.idle, 0#8⟩, modStep := 0#16, modPhase := 0#16
    modEnv := ⟨.idle, 0#8⟩, modDepth := 0#4
    samplePos := 0#32, sampleStep := 0#32, loopStart := 0#24, loopEnd := 0#24, level := 0#8, rel := false }

/-- The whole state. -/
structure State where
  /-- THE MODEL'S OWN (log entry 1): the configuration of the instance; no event writes it. -/
  cfg : Config
  /-- V[0] to V[N_VOICES-1] (10_state.md R20) -/
  voices : List Voice
  /-- the round-robin steal pointer (R31) -/
  rr : BitVec 4
  /-- the master attenuation shift (R32) -/
  mvol : BitVec 4
  /-- the harmonic ratio for later notes (R33) -/
  fmHr : BitVec 8
  /-- the modulation depth shift for later notes (R33) -/
  fmDepth : BitVec 4
  /-- the bip countdown in samples (R34) -/
  bipCount : BitVec 16
  /-- the bip phase (R34) -/
  bipPhase : BitVec 16
  /-- the output level register, OUT_W bits of these 10 (R35, log entry 6) -/
  out : BitVec 10
  /-- the sticky command-error flag (R36) -/
  err : Bool
  /-- the code of the first error (R36) -/
  errCode : BitVec 4
  /-- the `seq_tick` output (46_sample_datapath.md R179, 70_reset_and_hazards.md R230, log entry 5) -/
  seqTick : Bool
  /-- THE MODEL'S OWN (log entry 3): the port cycles still to come, oldest first. -/
  inputs : List PortCycle
  /-- THE MODEL'S OWN (log entry 4): how many free values have been drawn. -/
  freeCount : Nat
deriving DecidableEq, Repr

/-- The state RESET leaves in an instance of configuration `c` (10_state.md R55), with no input waiting. -/
def State.resetOf (c : Config) : State :=
  { cfg := c
    voices := List.replicate c.nVoices Voice.reset
    rr := 0#4
    mvol := 0#4
    fmHr := BitVec.ofNat 8 c.fmHrReset
    fmDepth := BitVec.ofNat 4 c.fmDepthReset
    bipCount := 0#16
    bipPhase := 0#16
    out := BitVec.ofNat 10 (min c.outOffset (2 ^ c.outW - 1))
    err := false
    errCode := 0#4
    seqTick := false
    inputs := []
    freeCount := 0 }

/-- The machine right after reset. The spec leaves the instance open; it is RC0 with VOICE_KIND = SINE (log entries 1
and 2). -/
def State.reset : State := State.resetOf (Config.rc0 .sine)

/-- Why the machine stops. The PVE itself never stops (60_exceptions.md R200): both reasons are the model's, raised only in
states no run from a reset reaches. -/
inductive Fault where
  /-- Raised by NOTE_ON when it would write a slot that does not exist: `rr` at or above the number of slots, which
  10_state.md R30 (e) rules out. Safe: the model stops (log entry 7). -/
  | noSuchSlot
  /-- Raised by SAMPLE when an active wavetable voice would read at or above WT_LEN, where `WtRead` is not defined
  (20_memory.md R62) and which 10_state.md R30 (d) rules out. Safe: the model stops (log entry 8). -/
  | wtReadOutOfRange
deriving DecidableEq, Repr

/-- Why the model gives no next state. -/
inductive Refusal where
  /-- Answered by `exec`'s arm of an instruction without a meaning. Safe. No arm answers it. -/
  | notModelled (mnemonic : String)
  /-- Answered by `step` for a configuration outside 00_scope.md R8, which "describes no PVE instance". Safe
  (log entry 9). -/
  | illegalConfig
deriving DecidableEq, Repr

end Sys2Proof.Machine
end

