-- ==== Sys2Proof/Machine/Ops.lean ====
section
/-!
DEFINITION. The operations every meaning shares: the integer primitives of 00_scope.md R11, the reads of a byte array, one
setter per register, the return to the reset values, and the command error (60_exceptions.md R201), which is the whole of
the PVE's exception model: nothing is saved, no mode changes, no vector is taken (R208), and there is no return from it
(R209). CLR_ERR, INIT and RESET clear it.
-/

namespace Sys2Proof

/-- The byte at an address of a canonical byte array; an address without an entry reads 0 (log entry 12). -/
def Memory.read : List Host.Cell → Nat → Byte
  | [], _ => 0#8
  | (b, x) :: m, a => if a = b then x else Memory.read m a

/-- The canonical byte array that holds the given bytes from address `a` on. -/
def Memory.ofBytes (a : Nat) : List Byte → List Host.Cell
  | [] => []
  | x :: xs => if x = 0#8 then Memory.ofBytes (a + 1) xs else (a, x) :: Memory.ofBytes (a + 1) xs

namespace Machine

/-- `fdiv(x, n)` = floor(x / n) for n > 0 (00_scope.md R11). -/
def fdiv (x : Int) (n : Nat) : Int := Int.fdiv x n

/-- `asr(x, k)` = floor(x / 2^k) (00_scope.md R11). -/
def asr (x : Int) (k : Nat) : Int := fdiv x (2 ^ k)

/-- `clamp(x, lo, hi)` (00_scope.md R11). -/
def clamp (x lo hi : Int) : Int := min (max x lo) hi

/-- Sequencing of two parts of a step: the second runs on the state the first leaves, and a stop stays a stop. -/
def andThen (o : Host.Outcome State Fault Refusal) (f : State → Host.Outcome State Fault Refusal) :
    Host.Outcome State Fault Refusal :=
  match o with
  | .next s => f s
  | .fault r => .fault r
  | .refused r => .refused r

/-- The next state of an outcome, where there is one. -/
def nextState? (o : Host.Outcome State Fault Refusal) : Option State :=
  match o with
  | .next s => some s
  | .fault _ => none
  | .refused _ => none

/-! ### Setters: every write of a register goes through one of these -/

def State.setVoices (s : State) (v : List Voice) : State := { s with voices := v }
def State.setRr (s : State) (v : BitVec 4) : State := { s with rr := v }
def State.setMvol (s : State) (v : BitVec 4) : State := { s with mvol := v }
def State.setFm (s : State) (hr : BitVec 8) (depth : BitVec 4) : State := { s with fmHr := hr, fmDepth := depth }
def State.setBipCount (s : State) (v : BitVec 16) : State := { s with bipCount := v }
def State.setBipPhase (s : State) (v : BitVec 16) : State := { s with bipPhase := v }
def State.setOut (s : State) (v : BitVec 10) : State := { s with out := v }
def State.setErr (s : State) (e : Bool) (code : BitVec 4) : State := { s with err := e, errCode := code }
def State.setSeqTick (s : State) (v : Bool) : State := { s with seqTick := v }
def State.setInputs (s : State) (v : List PortCycle) : State := { s with inputs := v }
def State.setFreeCount (s : State) (v : Nat) : State := { s with freeCount := v }

/-- Every piece of the spec's state to its reset value (10_state.md R55): what RESET and INIT do (40_voice_commands.md
R131, 70_reset_and_hazards.md R220). The instance, the inputs to come and the free values drawn are not state of the
block and stay (log entry 19). -/
def State.reinit (s : State) : State :=
  { State.resetOf s.cfg with inputs := s.inputs, freeCount := s.freeCount }

/-- `CmdError(code)`: the word is discarded, and the first error since the last clearing is kept (60_exceptions.md R201). -/
def State.raiseCmdError (s : State) (e : CmdErr) : State :=
  if s.err then s else s.setErr true e.code

end Machine

end Sys2Proof
end

