-- ==== Sys2Proof/Machine/Flags.lean ====
section
/-!
DEFINITION. The only flag of the PVE is `err` (10_state.md R37); the mixer records no saturation or overflow. This file
clears it, and computes the status bits that the read port shows (R43).
-/

namespace Sys2Proof.Machine

/-- `err <- 0; err_code <- 0` (40_voice_commands.md R133). -/
def State.clearErr (s : State) : State := s.setErr false 0#4

/-- A voice is active when its `note` is not 0 (00_scope.md R14). -/
def Voice.active (v : Voice) : Bool := v.note != 0#8

/-- BIP_ACTIVE: 1 when `bip_count` is not 0 (10_state.md R43). -/
def State.bipActive (s : State) : Bool := s.bipCount != 0#16

/-- The number whose bit i is 1 when slot i of the list is active. -/
def activeMask : List Voice → Nat
  | [] => 0
  | v :: vs => v.active.toNat + 2 * activeMask vs

/-- ACTIVE: bit i is 1 when V[i].note is not 0, for i < N_VOICES, and 0 above (10_state.md R43). -/
def State.activeBits (s : State) : BitVec 15 := BitVec.ofNat 15 (activeMask (s.voices.take s.cfg.nVoices))

end Sys2Proof.Machine
end

