-- ==== Sys2Proof/Machine/Control.lean ====
section
/-!
DEFINITION. The control commands of 40_voice_commands.md: NOP, INIT, SET_FM, SET_MVOL, BIP, CLR_ERR. Each changes only the
state its rule writes (R100).
-/

namespace Sys2Proof.Machine

/-- NOP: "It changes no state, writes no flag and raises nothing" (40_voice_commands.md R120). -/
def execNop (s : State) : Host.Outcome State Fault Refusal := .next s

/-- INIT: every piece of state into its reset value (40_voice_commands.md R131). -/
def execInit (s : State) : Host.Outcome State Fault Refusal := .next s.reinit

/-- SET_FM (40_voice_commands.md R114). -/
def execSetFm (hr : BitVec 8) (depth : BitVec 4) (s : State) : Host.Outcome State Fault Refusal :=
  .next (s.setFm hr depth)

/-- SET_MVOL (40_voice_commands.md R116). -/
def execSetMvol (l : BitVec 4) (s : State) : Host.Outcome State Fault Refusal := .next (s.setMvol l)

/-- BIP: the count is replaced and the phase is kept (40_voice_commands.md R118). -/
def execBip (d : BitVec 16) (s : State) : Host.Outcome State Fault Refusal := .next (s.setBipCount d)

/-- CLR_ERR (40_voice_commands.md R133). -/
def execClrErr (s : State) : Host.Outcome State Fault Refusal := .next s.clearErr

end Sys2Proof.Machine
end

