-- ==== Sys2Proof/Machine/Operands.lean ====
section
/-!
DEFINITION. The fixed index computations by which the PVE reads its tables (20_memory.md R61 to R63, 40_voice_commands.md R134):
they are its only operand forms beyond the zero-extended fields of a command word (30_encoding.md R82).
-/

namespace Sys2Proof.Machine

/-- `SineRead(i)`: entry i of SINE_TABLE as a signed integer (20_memory.md R61). -/
def sineRead (c : Config) (i : BitVec 8) : Int := (c.sineTable[i.toNat]'i.isLt).toInt

/-- `SemiRead(k)`: entry k of SEMI_TABLE, 0 to 11 (20_memory.md R63). -/
def semiRead (c : Config) (k : Fin 12) : Nat := c.semiTable[k].toNat

/-- `WtRead(a)`: byte a of WT_DATA as a signed integer, defined for a < WT_LEN (20_memory.md R62). -/
def wtRead (c : Config) (a : Nat) : Option Int :=
  if a < c.wtLen then some (Memory.read c.wtData a).toInt else none

/-- The table index of a Q8.8 phase: `phase[15:8]` (10_state.md R24). -/
def phaseIndex (p : BitVec 16) : BitVec 8 := p.extractLsb' 8 8

/-- The byte offset of a cursor: `sample_pos[31:8]` (10_state.md R27). -/
def posByte (p : BitVec 32) : BitVec 24 := p.extractLsb' 8 24

/-- The phase increment of note n: the semitone entry of `n mod 12` shifted by `n div 12` octaves, modulo 2^16
(40_voice_commands.md R103). -/
def noteStep (c : Config) (n : BitVec 7) : BitVec 16 :=
  BitVec.ofNat 16 (semiRead c ⟨n.toNat % 12, Nat.mod_lt _ (by decide)⟩ * 2 ^ (n.toNat / 12))

/-- The modulator's phase increment: `fdiv(step * fm_hr, 2^HR_FRAC) mod 2^16` (40_voice_commands.md R103). -/
def modStepOf (c : Config) (step : BitVec 16) (hr : BitVec 8) : BitVec 16 :=
  BitVec.ofInt 16 (fdiv (step.toNat * hr.toNat) (2 ^ c.hrFrac))

/-- The free value numbered `k` held above LOOP_START, as 10_state.md R30 (d) requires of `loop_end`: each of the
2^24 - 1 - LOOP_START values above it is possible. With LOOP_START = 2^24 - 1 there is none, and the value is any at all
(log entry 4). -/
def freeLoopEndAbove (c : Config) (k : Nat) : BitVec 24 :=
  BitVec.ofNat 24 (c.loopStart + 1 + (Config.freeLoopEnd k).toNat % (2 ^ 24 - 1 - c.loopStart))

/-- What a NOTE_ON leaves in `loop_end`: LOOP_END, or a free value where 24 bits cannot hold LOOP_END (log entry 4). -/
def loopEndReg (c : Config) (k : Nat) : BitVec 24 :=
  if c.loopEnd < 2 ^ 24 then BitVec.ofNat 24 c.loopEnd else freeLoopEndAbove c k

/-- How many free values one such write draws. -/
def loopEndDraws (c : Config) : Nat := if c.loopEnd < 2 ^ 24 then 0 else 1

end Sys2Proof.Machine
end

