-- ==== Sys2Proof/Machine/Pool.lean ====
section
/-!
DEFINITION. The voice-pool commands of 40_voice_commands.md: NOTE_ON, NOTE_OFF, ALL_OFF.
-/

namespace Sys2Proof.Machine

/-- The least i with V[i].note = 0, if any (40_voice_commands.md R102). -/
def firstFree : List Voice → Option Nat
  | [] => none
  | v :: vs => if v.active then (firstFree vs).map (· + 1) else some 0

/-- The pointer after a steal: `(rr + 1) mod N_VOICES` (40_voice_commands.md R102). -/
def nextRr (s : State) : BitVec 4 := BitVec.ofNat 4 ((s.rr.toNat + 1) % s.cfg.nVoices)

/-- The slot NOTE_ON takes: the first free one, or else the one at `rr` (40_voice_commands.md R102). -/
def slotFor (s : State) : Nat := (firstFree s.voices).getD s.rr.toNat

/-- `rr` after the choice: it changes only when a voice is stolen (40_voice_commands.md R102). -/
def rrAfter (s : State) : BitVec 4 :=
  match firstFree s.voices with
  | some _ => s.rr
  | none => nextRr s

/-- The fields of a slot that NOTE_ON n initialises before `note`, whatever VOICE_KIND is (40_voice_commands.md R103). -/
def slotInit (s : State) (n : BitVec 7) (v : Voice) : Voice :=
  { note := v.note
    step := noteStep s.cfg n
    phase := 0#16
    env := ⟨.attack, 0#8⟩
    modStep := modStepOf s.cfg (noteStep s.cfg n) s.fmHr
    modPhase := 0#16
    modEnv := ⟨.attack, 0#8⟩
    modDepth := s.fmDepth
    samplePos := 0#32
    sampleStep := (noteStep s.cfg n).setWidth 32
    loopStart := BitVec.ofNat 24 s.cfg.loopStart
    loopEnd := loopEndReg s.cfg s.freeCount
    level := BitVec.ofNat 8 s.cfg.levelMax
    rel := false }

/-- The slot after NOTE_ON n: `note` is written last (40_voice_commands.md R103, R105). -/
def startNote (s : State) (n : BitVec 7) (v : Voice) : Voice := { slotInit s n v with note := n.setWidth 8 }

/-- NOTE_ON n (40_voice_commands.md R101 to R105). -/
def execNoteOn (n : BitVec 7) (s : State) : Host.Outcome State Fault Refusal :=
  if n = 0#7 then .next s
  else
    match s.voices[slotFor s]? with
    | none => .fault .noSuchSlot
    | some v =>
      .next (((s.setVoices (s.voices.set (slotFor s) (startNote s n v))).setRr (rrAfter s)).setFreeCount
        (s.freeCount + loopEndDraws s.cfg))

/-- The slot after NOTE_OFF n: every holder is released, `vel` unchanged (40_voice_commands.md R109). -/
def releaseNote (n : BitVec 7) (v : Voice) : Voice :=
  if v.note = n.setWidth 8 then
    { v with env := { v.env with state := .release }, modEnv := { v.modEnv with state := .release }, rel := true }
  else v

/-- NOTE_OFF n (40_voice_commands.md R108, R109, R104). -/
def execNoteOff (n : BitVec 7) (s : State) : Host.Outcome State Fault Refusal :=
  if n = 0#7 then .next s else .next (s.setVoices (s.voices.map (releaseNote n)))

/-- A slot with its `note` cleared: free, every other field kept. -/
def Voice.free (v : Voice) : Voice := { v with note := 0#8 }

/-- ALL_OFF: every `note` to 0 and nothing else (40_voice_commands.md R112). -/
def execAllOff (s : State) : Host.Outcome State Fault Refusal := .next (s.setVoices (s.voices.map Voice.free))

end Sys2Proof.Machine
end

