-- ==== Sys2Proof/Machine/Sample.lean ====
section
/-!
DEFINITION. The oscillators, the mixer and the SAMPLE event of 46_sample_datapath.md.
-/

namespace Sys2Proof.Machine

/-- A value scaled by an amplitude: `asr(x * amp, ENV_SHIFT)` (46_sample_datapath.md R161, R163). -/
def scaled (c : Config) (x : Int) (amp : BitVec 8) : Int := asr (x * amp.toNat) c.envShift

/-- The phase offset of an FM voice (46_sample_datapath.md R162). -/
def fmOffset (c : Config) (v : Voice) : Int :=
  asr (sineRead c (phaseIndex v.modPhase) * v.modEnv.vel.toNat) v.modDepth.toNat

/-- The table index of an FM carrier: the offset is added modulo 2^16 before the index is taken (46_sample_datapath.md R162). -/
def fmIndex (c : Config) (v : Voice) : BitVec 8 := phaseIndex (BitVec.ofInt 16 (v.phase.toNat + fmOffset c v))

/-- One slot's contribution to the mix, from the state before its cursor advances; a free one gives 0. None where `WtRead` is
not defined (46_sample_datapath.md R160 to R163). -/
def contribution (c : Config) (v : Voice) : Option Int :=
  if v.active then
    match c.voiceKind with
    | .sine => some (scaled c (sineRead c (phaseIndex v.phase)) v.env.vel)
    | .fm => some (scaled c (sineRead c (fmIndex c v)) v.env.vel)
    | .wavetable => (wtRead c (posByte v.samplePos).toNat).map fun b => scaled c b v.level
  else some 0

/-- The voice sum S (46_sample_datapath.md R166). -/
def voiceSum (c : Config) : List Voice → Option Int
  | [] => some 0
  | v :: vs =>
    match contribution c v, voiceSum c vs with
    | some x, some S => some (x + S)
    | _, _ => none

/-- A wavetable cursor one sample later, with the sustain loop: a cursor that reaches `loop_end` is set to `loop_start` with
fraction 0 (46_sample_datapath.md R164). -/
def loopAdvance (v : Voice) : BitVec 32 :=
  let p := v.samplePos + v.sampleStep
  if (posByte p).toNat ≥ v.loopEnd.toNat then v.loopStart ++ 0#8 else p

/-- One slot with its cursors advanced; a free one is left alone (46_sample_datapath.md R160 to R164). -/
def sampleVoice (c : Config) (v : Voice) : Voice :=
  if v.active then
    match c.voiceKind with
    | .sine => { v with phase := v.phase + v.step }
    | .fm => { v with phase := v.phase + v.step, modPhase := v.modPhase + v.modStep }
    | .wavetable => { v with samplePos := loopAdvance v }
  else v

/-- The bip's part of the mix (46_sample_datapath.md R174). -/
def bipTone (s : State) : Int :=
  if s.bipActive then asr (sineRead s.cfg (phaseIndex s.bipPhase)) s.cfg.bipShift else 0

/-- The bip's countdown and phase one sample later (46_sample_datapath.md R174). -/
def State.stepBip (s : State) : State :=
  if s.bipActive then
    (s.setBipPhase (s.bipPhase + BitVec.ofNat 16 s.cfg.bipStep)).setBipCount (s.bipCount - 1#16)
  else s

/-- The attenuated mix: `T = fdiv(S, N_VOICES) + B`, then `asr(T, mvol)` (46_sample_datapath.md R167, R175, R176). -/
def attenuated (s : State) (S : Int) : Int := asr (fdiv S s.cfg.nVoices + bipTone s) s.mvol.toNat

/-- The output register's value for an attenuated mix: offset, then held in range or wrapped (46_sample_datapath.md R177). -/
def outputLevel (c : Config) (ma : Int) : BitVec 10 :=
  match c.outOverflow with
  | .saturate => BitVec.ofInt 10 (clamp (ma + c.outOffset) 0 (2 ^ c.outW - 1))
  | .wrap => BitVec.ofInt 10 ((ma + c.outOffset) % 2 ^ c.outW)

/-- SAMPLE (46_sample_datapath.md R180): `seq_tick` is asserted once `out` is written (R179). -/
def execSample (s : State) : Host.Outcome State Fault Refusal :=
  match voiceSum s.cfg s.voices with
  | none => .fault .wtReadOutOfRange
  | some S =>
    .next (((s.stepBip.setVoices (s.voices.map (sampleVoice s.cfg))).setOut (outputLevel s.cfg (attenuated s S))).setSeqTick
      true)

end Sys2Proof.Machine
end

