-- ==== Sys2Proof/Machine/Tick.lean ====
section
/-!
DEFINITION. The envelope generator and the TICK event of 45_envelope_tick.md.
-/

namespace Sys2Proof.Machine

/-- One step of an envelope, in ℤ and clamped before it is stored (45_envelope_tick.md R140, R141). -/
def advance (maxv : Nat) (r : EnvRates) (e : Env) : Env :=
  match e.state with
  | .attack =>
    let t : Int := e.vel.toNat + r.a
    if t ≥ maxv then ⟨.decay, BitVec.ofNat 8 maxv⟩ else ⟨.attack, BitVec.ofInt 8 t⟩
  | .decay =>
    let t : Int := e.vel.toNat - r.d
    if t ≤ r.s then ⟨.sustain, BitVec.ofNat 8 r.s⟩ else ⟨.decay, BitVec.ofInt 8 t⟩
  | .sustain => e
  | .release =>
    let t : Int := e.vel.toNat - r.r
    if t ≤ 0 then ⟨.idle, 0#8⟩ else ⟨.release, BitVec.ofInt 8 t⟩
  | .idle => e

/-- The slot with its `note` cleared if its carrier envelope is Idle (45_envelope_tick.md R147, R148 (b) and (c)). -/
def Voice.retireIdle (v : Voice) : Voice := if v.env.state = .idle then v.free else v

/-- A wavetable level one tick later: `max(0, level - WT_DECAY)` (45_envelope_tick.md R147). -/
def levelAfter (c : Config) (l : BitVec 8) : BitVec 8 := BitVec.ofInt 8 (max 0 ((l.toNat : Int) - c.wtDecay))

/-- A wavetable slot in TICK: the level falls once `rel` is set, and the slot is freed at 0 (45_envelope_tick.md R147, R150). -/
def tickLevel (c : Config) (v : Voice) : Voice :=
  if v.rel then
    let w := { v with level := levelAfter c v.level }
    if w.level = 0#8 then w.free else w
  else v

/-- One slot in TICK: only active voices are advanced (45_envelope_tick.md R147, R148). -/
def tickVoice (c : Config) (v : Voice) : Voice :=
  if v.active then
    match c.voiceKind with
    | .sine => ({ v with env := advance c.maxv c.envCarrier v.env } : Voice).retireIdle
    | .fm =>
      ({ v with env := advance c.maxv c.envCarrier v.env, modEnv := advance c.maxv c.envMod v.modEnv } : Voice).retireIdle
    | .wavetable => tickLevel c v
  else v

/-- TICK (45_envelope_tick.md R147). -/
def execTick (s : State) : Host.Outcome State Fault Refusal := .next (s.setVoices (s.voices.map (tickVoice s.cfg)))

end Sys2Proof.Machine
end

