-- ==== Sys2Proof/Machine/Dispatch.lean ====
section
/-!
DEFINITION. One arm per constructor of `Instr`, each one direct call of the instruction's meaning.
-/

namespace Sys2Proof.Machine

def exec (i : Instr) (s : State) : Host.Outcome State Fault Refusal :=
  match i with
  | .nop => Sys2Proof.Machine.execNop s
  | .init => Sys2Proof.Machine.execInit s
  | .noteOn n => Sys2Proof.Machine.execNoteOn n s
  | .noteOff n => Sys2Proof.Machine.execNoteOff n s
  | .allOff => Sys2Proof.Machine.execAllOff s
  | .setFm hr depth => Sys2Proof.Machine.execSetFm hr depth s
  | .setMvol l => Sys2Proof.Machine.execSetMvol l s
  | .bip d => Sys2Proof.Machine.execBip d s
  | .clrErr => Sys2Proof.Machine.execClrErr s
  | .tick => Sys2Proof.Machine.execTick s
  | .sample => Sys2Proof.Machine.execSample s

end Sys2Proof.Machine
end

