-- ==== Sys2Proof/Machine/ReadPort.lean ====
section
/-!
DEFINITION. The read port (10_state.md R40 to R49) and the output ports (30_encoding.md R80). `rd_data` is a combinational
function of the state and the address (R87): a READ writes nothing, so it is a function here and no field of the state
(log entry 11).
-/

namespace Sys2Proof.Machine

/-- The code of an envelope state (10_state.md R25). -/
def EnvState.code : EnvState → BitVec 3
  | .attack => 0#3
  | .decay => 1#3
  | .sustain => 2#3
  | .release => 3#3
  | .idle => 4#3

/-- The VOICE_KIND code of the ID register (10_state.md R47). -/
def kindCode : VoiceKind → BitVec 2
  | .sine => 0#2
  | .fm => 1#2
  | .wavetable => 2#2

/-- OUT: the OUT_W bits of `out` (10_state.md R42). -/
def outWord (s : State) : Word := BitVec.ofNat 32 (s.out.toNat % 2 ^ s.cfg.outW)

/-- STATUS (10_state.md R43). -/
def statusWord (s : State) : Word :=
  0#1 ++ s.activeBits ++ s.rr ++ 0#3 ++ BitVec.ofBool s.bipActive ++ s.errCode ++ 0#3 ++ BitVec.ofBool s.err

/-- CFG (10_state.md R44). -/
def cfgWord (s : State) : Word := 0#12 ++ s.fmDepth ++ s.fmHr ++ 0#4 ++ s.mvol

/-- BIP (10_state.md R45). -/
def bipWord (s : State) : Word := s.bipPhase ++ s.bipCount

/-- ID (10_state.md R47). -/
def idWord (c : Config) : Word :=
  0x01#8 ++ 0#7 ++ BitVec.ofBool (decide (c.maxv = 255)) ++ BitVec.ofNat 4 c.outW ++ 0#2 ++ kindCode c.voiceKind ++
    BitVec.ofNat 8 c.nVoices

/-- Register k of a voice block (10_state.md R48). -/
def voiceWord (v : Voice) (k : Nat) : Word :=
  match k with
  | 0 => v.note.setWidth 32
  | 1 => v.modStep ++ v.step
  | 2 => v.modPhase ++ v.phase
  | 3 => v.modEnv.vel ++ 0#5 ++ v.modEnv.state.code ++ v.env.vel ++ 0#5 ++ v.env.state.code
  | 4 => v.modDepth.setWidth 32
  | 5 => v.samplePos
  | 6 => 0#23 ++ BitVec.ofBool v.rel ++ v.level
  | 7 => v.loopStart.setWidth 32
  | 8 => v.loopEnd.setWidth 32
  | 9 => v.sampleStep
  | _ => 0#32

/-- Register k of slot i; an absent voice reads 0 (10_state.md R48, R49). -/
def voiceRegister (s : State) (i k : Nat) : Word :=
  if i < s.cfg.nVoices then
    match s.voices[i]? with
    | some v => voiceWord v k
    | none => 0#32
  else 0#32

/-- `rd_data` for an address: the map of 10_state.md R41; an unmapped address reads 0 (R40). -/
def readPort (s : State) (addr : BitVec 8) : Word :=
  match addr.toNat with
  | 0 => outWord s
  | 1 => statusWord s
  | 2 => cfgWord s
  | 3 => bipWord s
  | 4 => idWord s.cfg
  | a => if a < 16 then 0#32 else voiceRegister s ((a - 16) / 16) ((a - 16) % 16)

/-- The output ports of one cycle (30_encoding.md R80). -/
structure PortOut where
  rdData : Word
  outLevel : BitVec 10
  seqTick : Bool
deriving DecidableEq, Repr

/-- What the output ports show in a cycle with inputs `c` that begins in state `s`: the registers of `s`, and a READ of `s`
before the cycle's events (60_exceptions.md R206, 70_reset_and_hazards.md R230). DESIGN CHOICE, unsafe (log entry 5): with
`rst = 1` in the cycle right after a SAMPLE the pulse of that SAMPLE is shown (R230), and R221's "asserts no `seq_tick`" is read
of the pulse the reset cycle itself would start. -/
def portOut (s : State) (c : PortCycle) : PortOut :=
  { rdData := readPort s c.rdAddr, outLevel := s.out, seqTick := s.seqTick }

end Sys2Proof.Machine
end

