-- ==== Sys2Proof/Machine/Cycle.lean ====
section
/-!
DEFINITION. One clock cycle: the events of the ports in their fixed order (60_exceptions.md R206), each whole (00_scope.md R13).
-/

namespace Sys2Proof.Machine

/-- One event of a cycle: an operation runs, and an illegal word raises its command error (30_encoding.md R85, 60_exceptions.md
R201). -/
def runEvent (e : Except CmdErr Instr) (s : State) : Host.Outcome State Fault Refusal :=
  match e with
  | .ok i => exec i s
  | .error r => .next (s.raiseCmdError r)

/-- The events of a cycle one after another, each on the state the one before it leaves (20_memory.md R70). -/
def runEvents : List (Except CmdErr Instr) → State → Host.Outcome State Fault Refusal
  | [], s => .next s
  | e :: es, s => andThen (runEvent e s) (runEvents es)

/-- The start of a cycle: the inputs of the cycle are taken, and the pulse of the cycle before ends, since `seq_tick` is
asserted "for one cycle" (70_reset_and_hazards.md R230). -/
def State.beginCycle (s : State) : State := (s.setInputs s.inputs.tail).setSeqTick false

/-- One cycle with the given inputs: RESET discards every other event (70_reset_and_hazards.md R221), else SAMPLE, TICK, CMD. -/
def runCycle (c : PortCycle) (s : State) : Host.Outcome State Fault Refusal :=
  if c.rst then .next s.beginCycle.reinit else runEvents (decodeCycle c) s.beginCycle

/-- The inputs of the next cycle; with none waiting nothing is asserted (60_exceptions.md R216). -/
def State.nextInput (s : State) : PortCycle := s.inputs.headD PortCycle.quiet

/-- One clock cycle of a legal instance; an illegal configuration is refused (00_scope.md R8). -/
def clockCycle (s : State) : Host.Outcome State Fault Refusal :=
  if s.cfg.Legal then runCycle s.nextInput s else .refused .illegalConfig

/-- The state with a command word as the inputs of the very next cycle. -/
def State.pushCommand (s : State) (w : Word) : State := s.setInputs (PortCycle.command w :: s.inputs)

end Sys2Proof.Machine
end

