-- ==== Sys2Proof/Machine/Step.lean ====
section
/-!
DEFINITION. One step is one clock cycle. `withFetchWord` places a command word on the command port of the next cycle.
-/

namespace Sys2Proof.Machine

/-- One clock cycle. -/
def step (s : State) : Host.Outcome State Fault Refusal := clockCycle s

/-- `s` with the command word `w` of `nbits` bits, the bits above them 0, as the inputs of the next cycle (log entries 3
and 15). -/
def State.withFetchWord (s : State) (nbits w : Nat) : State := s.pushCommand (BitVec.ofNat 32 (w % 2 ^ nbits))

end Sys2Proof.Machine
end

