-- ==== Sys2Proof/Machine/Asm.lean ====
section
/-!
DEFINITION. The written form of command streams (30_encoding.md R88, R89), from characters to port cycles. White space and
letter case are not stated there: words are separated by spaces or tabs, keywords are upper case as R88 and R89 spell them,
and hexadecimal digits are of either case; a line with no item is accepted (log entry 16).
-/

namespace Sys2Proof.Machine

/-- The value of one digit. -/
def digitValue (c : Char) : Option Nat :=
  if '0' ≤ c ∧ c ≤ '9' then some (c.toNat - 48)
  else if 'a' ≤ c ∧ c ≤ 'f' then some (c.toNat - 87)
  else if 'A' ≤ c ∧ c ≤ 'F' then some (c.toNat - 55)
  else none

/-- The value of a digit string in a base, `acc` being the value of the digits before it. -/
def digits (base acc : Nat) : List Char → Option Nat
  | [] => some acc
  | c :: cs =>
    match digitValue c with
    | some d => if d < base then digits base (acc * base + d) cs else none
    | none => none

/-- "Numbers are decimal, or hexadecimal with a 0x prefix" (30_encoding.md R88). -/
def number : List Char → Option Nat
  | [] => none
  | [c] => digits 10 0 [c]
  | c :: c' :: cs => if c = '0' ∧ c' = 'x' then (if cs = [] then none else digits 16 0 cs) else digits 10 0 (c :: c' :: cs)

/-- A word under construction, last character first, as a list of at most one word. -/
def flushWord (cur : List Char) : List (List Char) := if cur = [] then [] else [cur.reverse]

/-- The words of a line up to its comment: "A ; starts a comment" (30_encoding.md R88). A comma is a word. -/
def lineWords (cur : List Char) : List Char → List (List Char)
  | [] => flushWord cur
  | c :: cs =>
    if c = ';' then flushWord cur
    else if c = ' ' ∨ c = '\t' then flushWord cur ++ lineWords [] cs
    else if c = ',' then flushWord cur ++ [[',']] ++ lineWords [] cs
    else lineWords (c :: cur) cs

/-- The lines of 30_encoding.md R88 and R89 that are one keyword. -/
def plainLines : List (List Char × AsmLine) :=
  [(['N', 'O', 'P'], .nop), (['I', 'N', 'I', 'T'], .init), (['A', 'L', 'L', '_', 'O', 'F', 'F'], .allOff),
    (['C', 'L', 'R', '_', 'E', 'R', 'R'], .clrErr), (['T', 'I', 'C', 'K'], .tick),
    (['S', 'A', 'M', 'P', 'L', 'E'], .sample), (['R', 'E', 'S', 'E', 'T'], .reset),
    (['B', 'I', 'P', '_', 'O', 'F', 'F'], .bipOff), (['F', 'M', '_', 'O', 'F', 'F'], .fmOff),
    (['U', 'N', 'M', 'U', 'T', 'E'], .unmute)]

/-- The lines of 30_encoding.md R88 and R89 that are a keyword and one number. -/
def numberedLine (k : List Char) (n : Nat) : Option AsmLine :=
  if k = ['N', 'O', 'T', 'E', '_', 'O', 'N'] then some (.noteOn n)
  else if k = ['N', 'O', 'T', 'E', '_', 'O', 'F', 'F'] then some (.noteOff n)
  else if k = ['S', 'E', 'T', '_', 'M', 'V', 'O', 'L'] then some (.setMvol n)
  else if k = ['B', 'I', 'P'] then some (.bip n)
  else if k = ['.', 'w', 'o', 'r', 'd'] then some (.word n)
  else if k = ['R', 'E', 'A', 'D'] then some (.read n)
  else if k = ['T', 'I', 'C', 'K', 'S'] then some (.ticks n)
  else if k = ['S', 'A', 'M', 'P', 'L', 'E', 'S'] then some (.samples n)
  else none

/-- The item of a line's words, or none where the line has no form of 30_encoding.md R88 or R89. -/
def parseWords : List (List Char) → Option AsmLine
  | [k] => plainLines.lookup k
  | [k, a] => (number a).bind (numberedLine k)
  | [k, a, comma, b] =>
    if k = ['S', 'E', 'T', '_', 'F', 'M'] ∧ comma = [','] then
      (number a).bind fun hr => (number b).map fun depth => .setFm hr depth
    else none
  | _ => none

/-- The port cycles of one written line: none where the assembler refuses it. DESIGN CHOICE, unsafe (log entry 16): "One line holds
one item" (30_encoding.md R88) does not say what a blank or comment-only line is; here it is accepted and gives no cycle. -/
def assembleLine (l : List Char) : Option (List PortCycle) :=
  match lineWords [] l with
  | [] => some []
  | ws => (parseWords ws).bind AsmLine.assemble

/-- The port cycles of a written program, line after line; none where any line is refused. -/
def assembleText : List (List Char) → Option (List PortCycle)
  | [] => some []
  | l :: ls => (assembleLine l).bind fun cs => (assembleText ls).map fun ds => cs ++ ds

end Sys2Proof.Machine
end

