-- ==== Sys2Proof/Safety.lean ====
section
/-!
DEFINITION. What a sound state is: the invariants of 10_state.md R30 with the facts they rest on; and which states a run from
a reset reaches.
-/

namespace Sys2Proof.Machine

/-- The claims of 10_state.md R30 about one slot, with the facts an inductive proof needs beside them. -/
structure VoiceInv (c : Config) (v : Voice) : Prop where
  /-- R30 (a) -/
  velLe : v.env.vel.toNat ≤ c.maxv ∧ v.modEnv.vel.toNat ≤ c.maxv
  /-- R30 (b) -/
  notIdle : c.voiceKind ≠ .wavetable → v.note ≠ 0#8 → v.env.state ≠ .idle
  /-- R30 (c) -/
  levelPos : c.voiceKind = .wavetable → v.note ≠ 0#8 → 0 < v.level.toNat
  /-- the level never exceeds the full scale, since LEVEL_MAX ≤ MAXV (00_scope.md R8) -/
  levelLe : v.level.toNat ≤ c.maxv
  /-- "so every sample read is in range", the purpose of R30 (d), true in every legal instance -/
  inRom : c.voiceKind = .wavetable → v.note ≠ 0#8 → (posByte v.samplePos).toNat < c.wtLen
  /-- R30 (d), but for LOOP_START = 2^24 - 1, above which no 24-bit `loop_end` lies (log entry 4) -/
  inLoop : c.voiceKind = .wavetable → v.note ≠ 0#8 → c.loopStart < 2 ^ 24 - 1 →
    (posByte v.samplePos).toNat < v.loopEnd.toNat ∧ v.loopEnd.toNat ≤ c.wtLen
  /-- the loop registers of an active voice are the asset's (40_voice_commands.md R103, log entry 4) -/
  loopRegs : v.note ≠ 0#8 → v.loopStart.toNat = c.loopStart ∧ (c.loopEnd < 2 ^ 24 → v.loopEnd.toNat = c.loopEnd) ∧
    (c.loopStart < 2 ^ 24 - 1 → c.loopStart < v.loopEnd.toNat)
  /-- R30 (f) -/
  noteLe : v.note.toNat ≤ 127

/-- The invariant of the machine: a legal instance, N_VOICES slots that meet `VoiceInv`, R30 (e), `out` in its OUT_W bits
(10_state.md R35), and an error code that is one of R202's and 0 exactly while `err` is clear. -/
structure Sound (s : State) : Prop where
  legal : s.cfg.Legal
  slots : s.voices.length = s.cfg.nVoices
  voices : ∀ v ∈ s.voices, VoiceInv s.cfg v
  rrLt : s.rr.toNat < s.cfg.nVoices
  outLt : s.out.toNat < 2 ^ s.cfg.outW
  errCodeLe : s.errCode.toNat ≤ 3
  errClear : s.err = false ↔ s.errCode = 0#4

/-- The states a run from RESET reaches in an instance of configuration `c`, the outside world placing any inputs at any
time. -/
inductive Reachable (c : Config) : State → Prop where
  | reset : c.Legal → Reachable c (State.resetOf c)
  | load {s : State} (ins : List PortCycle) : Reachable c s → Reachable c (s.setInputs ins)
  | step {s t : State} : Reachable c s → step s = .next t → Reachable c t

/-- A run of `k` clock cycles. -/
def stepTimes : Nat → State → Host.Outcome State Fault Refusal
  | 0, s => .next s
  | k + 1, s => andThen (step s) (stepTimes k)

/-- A run of `k` events of one operation, each on the state the one before it leaves. -/
def execTimes (i : Instr) : Nat → State → Host.Outcome State Fault Refusal
  | 0, s => .next s
  | k + 1, s => andThen (exec i s) (execTimes i k)

end Sys2Proof.Machine
end

