-- ==== Sys2Proof/Certificates/Slice0/Obligations.lean ====
section
/-!
DEFINITION. The statements for the provers, taken from the numbered rules of spec/. `Sys2Proof.Spec` holds the few notions the
statements share, written from the rules and not from the model's own functions.
-/

namespace Sys2Proof.Spec

open Sys2Proof Sys2Proof.Machine

/-- The operand bits that must be 0 for an opcode: check 2 of 30_encoding.md R85, with the rows of R84. -/
def reservedBits (opc : Nat) : Word :=
  if opc = 2 ∨ opc = 3 then 0x00FFFF00#32
  else if opc = 5 then 0x00FFF000#32
  else if opc = 6 then 0x00FFFFF0#32
  else if opc = 7 then 0x00FF0000#32
  else 0x00FFFFFF#32

/-- Every reset value of the table in 10_state.md R55, for an instance of configuration `c`. -/
structure AtReset (c : Config) (t : State) : Prop where
  slots : t.voices.length = c.nVoices
  note : ∀ v ∈ t.voices, v.note = 0#8
  stepPhase : ∀ v ∈ t.voices, v.step = 0#16 ∧ v.phase = 0#16
  env : ∀ v ∈ t.voices, v.env = ⟨.idle, 0#8⟩
  modStepPhase : ∀ v ∈ t.voices, v.modStep = 0#16 ∧ v.modPhase = 0#16
  modEnv : ∀ v ∈ t.voices, v.modEnv = ⟨.idle, 0#8⟩
  modDepth : ∀ v ∈ t.voices, v.modDepth = 0#4
  cursor : ∀ v ∈ t.voices, v.samplePos = 0#32 ∧ v.sampleStep = 0#32
  loop : ∀ v ∈ t.voices, v.loopStart = 0#24 ∧ v.loopEnd = 0#24
  level : ∀ v ∈ t.voices, v.level = 0#8 ∧ v.rel = false
  rr : t.rr = 0#4
  mvol : t.mvol = 0#4
  fm : t.fmHr.toNat = c.fmHrReset ∧ t.fmDepth.toNat = c.fmDepthReset
  bip : t.bipCount = 0#16 ∧ t.bipPhase = 0#16
  out : t.out.toNat = 2 ^ (c.outW - 1)
  err : t.err = false ∧ t.errCode = 0#4
  seqTick : t.seqTick = false

/-- Slot selection of 40_voice_commands.md R102: slot `i` is the least free one and `rr` stays, or no slot is free, `i` is `rr`, and
`rr` moves on modulo N_VOICES. -/
def Selects (s : State) (i : Nat) (rr' : BitVec 4) : Prop :=
  ((∃ v, s.voices[i]? = some v ∧ v.note = 0#8) ∧ (∀ j < i, ∀ u, s.voices[j]? = some u → u.note ≠ 0#8) ∧ rr' = s.rr) ∨
    ((∀ u ∈ s.voices, u.note ≠ 0#8) ∧ i = s.rr.toNat ∧ rr'.toNat = (s.rr.toNat + 1) % s.cfg.nVoices)

/-- One slot in TICK, as the pseudocode of 45_envelope_tick.md R147 has it. -/
def tickSlot (c : Config) (v : Voice) : Voice :=
  if v.note = 0#8 then v
  else
    match c.voiceKind with
    | .sine =>
      let e := advance c.maxv c.envCarrier v.env
      { v with env := e, note := if e.state = .idle then 0#8 else v.note }
    | .fm =>
      let e := advance c.maxv c.envCarrier v.env
      { v with env := e, modEnv := advance c.maxv c.envMod v.modEnv, note := if e.state = .idle then 0#8 else v.note }
    | .wavetable =>
      if v.rel then
        let l := v.level.toNat - c.wtDecay
        { v with level := BitVec.ofNat 8 l, note := if l = 0 then 0#8 else v.note }
      else v

/-- `max(1, ceil(v / r))`, the exact release time of 45_envelope_tick.md R152. -/
def releaseTicks (v r : Nat) : Nat := max 1 ((v + r - 1) / r)

/-- `ceil(x / y)` for y > 0. -/
def ceilDiv (x y : Nat) : Nat := (x + y - 1) / y

/-- The contribution of one slot to the voice sum, as the pseudocode of 46_sample_datapath.md R180 has it. Division is floor
division: every divisor is positive. -/
def contrib (c : Config) (v : Voice) : Int :=
  if v.note = 0#8 then 0
  else
    match c.voiceKind with
    | .sine => sineRead c (v.phase.extractLsb' 8 8) * v.env.vel.toNat / 2 ^ c.envShift
    | .fm =>
      let m : Int := sineRead c (v.modPhase.extractLsb' 8 8) * v.modEnv.vel.toNat / 2 ^ v.modDepth.toNat
      let idx := (BitVec.ofInt 16 ((v.phase.toNat + m) % 2 ^ 16)).extractLsb' 8 8
      sineRead c idx * v.env.vel.toNat / 2 ^ c.envShift
    | .wavetable =>
      (Memory.read c.wtData (v.samplePos.toNat / 2 ^ 8)).toInt * v.level.toNat / 2 ^ c.envShift

/-- One slot with its cursors advanced, as the pseudocode of 46_sample_datapath.md R180 has it. -/
def sampleSlot (c : Config) (v : Voice) : Voice :=
  if v.note = 0#8 then v
  else
    match c.voiceKind with
    | .sine => { v with phase := BitVec.ofNat 16 ((v.phase.toNat + v.step.toNat) % 2 ^ 16) }
    | .fm =>
      { v with
        phase := BitVec.ofNat 16 ((v.phase.toNat + v.step.toNat) % 2 ^ 16)
        modPhase := BitVec.ofNat 16 ((v.modPhase.toNat + v.modStep.toNat) % 2 ^ 16) }
    | .wavetable =>
      let p := (v.samplePos.toNat + v.sampleStep.toNat) % 2 ^ 32
      { v with samplePos := BitVec.ofNat 32 (if p / 2 ^ 8 ≥ v.loopEnd.toNat then v.loopStart.toNat * 2 ^ 8 else p) }

/-- Every wavetable read of the next SAMPLE is inside the ROM, where `WtRead` is defined (20_memory.md R62); the other kinds read
no ROM. -/
def Readable (s : State) : Prop :=
  s.cfg.voiceKind = .wavetable → ∀ v ∈ s.voices, v.note ≠ 0#8 → v.samplePos.toNat / 2 ^ 8 < s.cfg.wtLen

/-- The mix total T of 46_sample_datapath.md R180. -/
def total (s : State) : Int :=
  (s.voices.map (contrib s.cfg)).sum / s.cfg.nVoices +
    (if s.bipCount = 0#16 then 0 else sineRead s.cfg (s.bipPhase.extractLsb' 8 8) / 2 ^ s.cfg.bipShift)

/-- The value 46_sample_datapath.md R177 gives `out` for an attenuated mix. -/
def level (c : Config) (ma : Int) : Int :=
  match c.outOverflow with
  | .saturate => min (max (ma + 2 ^ (c.outW - 1)) 0) (2 ^ c.outW - 1)
  | .wrap => (ma + 2 ^ (c.outW - 1)) % 2 ^ c.outW

/-- `sext_8` of 00_scope.md R11: v − 2^8 if bit 7 is 1, else v. -/
def sext8 (b : Byte) : Int := if b.toNat < 2 ^ 7 then b.toNat else b.toNat - 2 ^ 8

/-- The five codes of an envelope state (10_state.md R25). -/
def envCode : EnvState → BitVec 3
  | .attack => 0#3
  | .decay => 1#3
  | .sustain => 2#3
  | .release => 3#3
  | .idle => 4#3

/-- Two slots that agree in every field their kind reads in its datapath (the table of 10_state.md R29). -/
def SameHeard (k : VoiceKind) (v w : Voice) : Prop :=
  v.note = w.note ∧
    match k with
    | .sine => v.step = w.step ∧ v.phase = w.phase ∧ v.env = w.env
    | .fm =>
      v.step = w.step ∧ v.phase = w.phase ∧ v.env = w.env ∧ v.modStep = w.modStep ∧ v.modPhase = w.modPhase ∧
        v.modEnv = w.modEnv ∧ v.modDepth = w.modDepth
    | .wavetable =>
      v.samplePos = w.samplePos ∧ v.sampleStep = w.sampleStep ∧ v.loopStart = w.loopStart ∧ v.loopEnd = w.loopEnd ∧
        v.level = w.level ∧ v.rel = w.rel

/-- Two states that differ in slot fields their kind does not use, and in nothing else. -/
def SameSound (s t : State) : Prop :=
  List.Forall₂ (SameHeard s.cfg.voiceKind) s.voices t.voices ∧ { s with voices := [] } = { t with voices := [] }

end Sys2Proof.Spec

open Sys2Proof Sys2Proof.Machine

/-! ### Encoding -/

/-- Decoding the port cycle that encodes an operation gives that operation and nothing else: no operand bit is dropped
(30_encoding.md R82, R84, R87). -/
def Obligations.EncodeThenDecodeGivesTheOperation : Prop :=
  ∀ i : Instr, decodeCycle (encode i) = [.ok i]

/-- Each legal word has one meaning: a word that decodes is the word of what it decodes to (30_encoding.md R84, R85). -/
def Obligations.DecodeThenEncodeGivesTheWord : Prop :=
  ∀ (w : Word) (i : Instr), decodeWord w = .ok i → encodeWord i = some w

/-- 30_encoding.md R84: "A word w is that command when `(w & mask) = match`", row by row, and no two rows match one word. -/
def Obligations.WordIsACommandExactlyWhenItsRowMatches : Prop :=
  ∀ w : Word,
    (w &&& 0xFFFFFFFF#32 = 0x00000000#32 ↔ decodeWord w = .ok .nop) ∧
    (w &&& 0xFFFFFFFF#32 = 0x01000000#32 ↔ decodeWord w = .ok .init) ∧
    (w &&& 0xFFFFFF80#32 = 0x02000000#32 ↔ decodeWord w = .ok (.noteOn (w.extractLsb' 0 7))) ∧
    (w &&& 0xFFFFFF80#32 = 0x03000000#32 ↔ decodeWord w = .ok (.noteOff (w.extractLsb' 0 7))) ∧
    (w &&& 0xFFFFFFFF#32 = 0x04000000#32 ↔ decodeWord w = .ok .allOff) ∧
    (w &&& 0xFFFFF000#32 = 0x05000000#32 ↔ decodeWord w = .ok (.setFm (w.extractLsb' 0 8) (w.extractLsb' 8 4))) ∧
    (w &&& 0xFFFFFFF0#32 = 0x06000000#32 ↔ decodeWord w = .ok (.setMvol (w.extractLsb' 0 4))) ∧
    (w &&& 0xFFFF0000#32 = 0x07000000#32 ↔ decodeWord w = .ok (.bip (w.extractLsb' 0 16))) ∧
    (w &&& 0xFFFFFFFF#32 = 0x08000000#32 ↔ decodeWord w = .ok .clrErr) ∧
    (∀ o o' : Opcode, w &&& o.rowMask = o.rowMatch → w &&& o'.rowMask = o'.rowMatch → o = o')

/-- 30_encoding.md R85: the first check that applies decides, in the rule's order, and an illegal word raises its CmdError and
changes no other state. -/
def Obligations.DecodingTakesTheFirstFailingCheck : Prop :=
  ∀ w : Word,
    (0x09 ≤ w.toNat / 2 ^ 24 → decodeWord w = .error .reservedOpcode) ∧
    (w.toNat / 2 ^ 24 < 0x09 → w &&& Spec.reservedBits (w.toNat / 2 ^ 24) ≠ 0#32 → decodeWord w = .error .reservedOperand) ∧
    (w.toNat / 2 ^ 24 = 0x02 ∨ w.toNat / 2 ^ 24 = 0x03 → w &&& Spec.reservedBits (w.toNat / 2 ^ 24) = 0#32 →
      w.getLsbD 7 = true → decodeWord w = .error .noteRange) ∧
    (w.toNat / 2 ^ 24 < 0x09 → w &&& Spec.reservedBits (w.toNat / 2 ^ 24) = 0#32 →
      ¬ ((w.toNat / 2 ^ 24 = 0x02 ∨ w.toNat / 2 ^ 24 = 0x03) ∧ w.getLsbD 7 = true) →
      ∃ i, decodeWord w = .ok i ∧ encodeWord i = some w) ∧
    (∀ (e : CmdErr) (s : State), decodeWord w = .error e →
      runEvent (decodeWord w) s = .next (if s.err then s else { s with err := true, errCode := e.code })) ∧
    CmdErr.reservedOpcode.code = 1 ∧ CmdErr.reservedOperand.code = 2 ∧ CmdErr.noteRange.code = 3

/-- 30_encoding.md R90: every row of the table of worked encodings. -/
def Obligations.WorkedEncodingsOfTheTable : Prop :=
  AsmLine.assemble (.noteOn 60) = some [PortCycle.command 0x0200003C#32] ∧
    decodeWord 0x0200003C#32 = .ok (.noteOn 60) ∧
    AsmLine.assemble (.noteOff 69) = some [PortCycle.command 0x03000045#32] ∧
    decodeWord 0x03000045#32 = .ok (.noteOff 69) ∧
    AsmLine.assemble (.setFm 2 8) = some [PortCycle.command 0x05000802#32] ∧
    decodeWord 0x05000802#32 = .ok (.setFm 2 8) ∧
    AsmLine.assemble (.setMvol 3) = some [PortCycle.command 0x06000003#32] ∧
    decodeWord 0x06000003#32 = .ok (.setMvol 3) ∧
    AsmLine.assemble (.bip 100) = some [PortCycle.command 0x07000064#32] ∧
    decodeWord 0x07000064#32 = .ok (.bip 100) ∧
    AsmLine.assemble (.word 0x02000080) = some [PortCycle.command 0x02000080#32] ∧
    decodeWord 0x02000080#32 = .error .noteRange ∧
    AsmLine.assemble (.word 0x02000100) = some [PortCycle.command 0x02000100#32] ∧
    decodeWord 0x02000100#32 = .error .reservedOperand ∧
    AsmLine.assemble (.word 0x09000000) = some [PortCycle.command 0x09000000#32] ∧
    decodeWord 0x09000000#32 = .error .reservedOpcode

/-- The assembler gives every line of 30_encoding.md R88 its word, strobe, reset or read, refuses an operand outside its range, and
expands the pseudo-instructions of R89. -/
def Obligations.AssemblerGivesEachLineItsCycles : Prop :=
  AsmLine.assemble .nop = some [PortCycle.command 0x00000000#32] ∧
    AsmLine.assemble .init = some [PortCycle.command 0x01000000#32] ∧
    AsmLine.assemble .allOff = some [PortCycle.command 0x04000000#32] ∧
    AsmLine.assemble .clrErr = some [PortCycle.command 0x08000000#32] ∧
    AsmLine.assemble .tick = some [{ PortCycle.quiet with tickStrobe := true }] ∧
    AsmLine.assemble .sample = some [{ PortCycle.quiet with sampleStrobe := true }] ∧
    AsmLine.assemble .reset = some [{ PortCycle.quiet with rst := true }] ∧
    (∀ a, AsmLine.assemble (.read a) =
      if a ≤ 255 then some [{ PortCycle.quiet with rdAddr := BitVec.ofNat 8 a }] else none) ∧
    (∀ n, AsmLine.assemble (.noteOn n) =
      if n ≤ 127 then some [PortCycle.command (BitVec.ofNat 32 (0x02000000 + n))] else none) ∧
    (∀ n, AsmLine.assemble (.noteOff n) =
      if n ≤ 127 then some [PortCycle.command (BitVec.ofNat 32 (0x03000000 + n))] else none) ∧
    (∀ hr depth, AsmLine.assemble (.setFm hr depth) =
      if hr ≤ 255 ∧ depth ≤ 15 then some [PortCycle.command (BitVec.ofNat 32 (0x05000000 + depth * 256 + hr))] else none) ∧
    (∀ l, AsmLine.assemble (.setMvol l) =
      if l ≤ 15 then some [PortCycle.command (BitVec.ofNat 32 (0x06000000 + l))] else none) ∧
    (∀ d, AsmLine.assemble (.bip d) =
      if d ≤ 65535 then some [PortCycle.command (BitVec.ofNat 32 (0x07000000 + d))] else none) ∧
    (∀ w, AsmLine.assemble (.word w) = if w < 2 ^ 32 then some [PortCycle.command (BitVec.ofNat 32 w)] else none) ∧
    AsmLine.assemble .bipOff = AsmLine.assemble (.bip 0) ∧
    AsmLine.assemble .fmOff = AsmLine.assemble (.setFm 0 0) ∧
    AsmLine.assemble .unmute = AsmLine.assemble (.setMvol 0) ∧
    (∀ k, AsmLine.assemble (.ticks k) = some (List.replicate k { PortCycle.quiet with tickStrobe := true })) ∧
    (∀ k, AsmLine.assemble (.samples k) = some (List.replicate k { PortCycle.quiet with sampleStrobe := true }))

/-- A byte-serial carrier sends byte 0 = bits [7:0] first, and the word arrives when all four bytes have (20_memory.md R64). -/
def Obligations.ByteSerialWordsAreLittleEndian : Prop :=
  (∀ (w : Word) (rest : List Byte), takeWord (bytesOfWord w ++ rest) = some (w, rest)) ∧
    (∀ b0 b1 b2 b3 : Byte, (wordOfBytes b0 b1 b2 b3).toNat =
      b0.toNat + 2 ^ 8 * b1.toNat + 2 ^ 16 * b2.toNat + 2 ^ 24 * b3.toNat) ∧
    (∀ bs : List Byte, takeWord bs = none ↔ bs.length < 4)

/-! ### The cycle -/

/-- When the inputs of a cycle hold one command word and it decodes to `i`, the step is `exec i` on the state whose inputs of the
cycle are taken and whose `seq_tick` pulse has ended. -/
def Obligations.StepRunsTheDecodedCommand : Prop :=
  ∀ (s : State) (c : PortCycle) (rest : List PortCycle) (i : Instr), s.cfg.Legal → s.inputs = c :: rest →
    c.rst = false → c.sampleStrobe = false → c.tickStrobe = false → c.cmdValid = true → decodeWord c.cmdData = .ok i →
    step s = exec i { s with inputs := rest, seqTick := false }

/-- A cycle that carries one strobe alone runs that strobe's event. -/
def Obligations.StepRunsASingleStrobe : Prop :=
  ∀ (s : State) (c : PortCycle) (rest : List PortCycle), s.cfg.Legal → s.inputs = c :: rest → c.rst = false →
    c.cmdValid = false →
    (c.sampleStrobe = true → c.tickStrobe = false → step s = exec .sample { s with inputs := rest, seqTick := false }) ∧
    (c.sampleStrobe = false → c.tickStrobe = true → step s = exec .tick { s with inputs := rest, seqTick := false })

/-- RESET discards every other event of the cycle; else SAMPLE, then TICK, then CMD, each on the state the one before left; a READ
returns the state before all of them (60_exceptions.md R206), and the pins `out_level` and `seq_tick` show the registers of that
state, so a SAMPLE is seen on them in the cycle after it (70_reset_and_hazards.md R230). That the cycle's inputs are taken and the
pulse register is cleared first is the model's (log entries 3 and 5), and so is the pulse a reset cycle shows (log entry 5). -/
def Obligations.EventsOfACycleRunInTheirFixedOrder : Prop :=
  ∀ (s : State) (c : PortCycle) (rest : List PortCycle), s.cfg.Legal → s.inputs = c :: rest →
    (c.rst = true → ∀ c' : PortCycle, c'.rst = true → step s = step { s with inputs := c' :: rest }) ∧
    (c.rst = true → ∃ t, step s = .next t ∧ Spec.AtReset s.cfg t) ∧
    (c.rst = false →
      step s =
        andThen (if c.sampleStrobe then exec .sample { s with inputs := rest, seqTick := false }
          else .next { s with inputs := rest, seqTick := false }) fun s1 =>
        andThen (if c.tickStrobe then exec .tick s1 else .next s1) fun s2 =>
          if c.cmdValid then runEvent (decodeWord c.cmdData) s2 else .next s2) ∧
    (portOut s c).rdData = readPort s c.rdAddr ∧ (portOut s c).outLevel = s.out ∧ (portOut s c).seqTick = s.seqTick

/-- A reset cycle ignores every other event and starts no `seq_tick` pulse; the next cycle with `rst = 0` runs its events
(70_reset_and_hazards.md R221). That "asserts no `seq_tick`" is said of the register after the reset cycle is the model's choice
(log entry 5), and so is the taking of the inputs (log entry 3). -/
def Obligations.ResetCycleIgnoresEveryOtherEvent : Prop :=
  ∀ (s : State) (c : PortCycle) (rest : List PortCycle), s.cfg.Legal → s.inputs = c :: rest → c.rst = true →
    ∃ t, step s = .next t ∧ t.seqTick = false ∧ t.inputs = rest ∧
      (∀ d : PortCycle, d.rst = true → step { s with inputs := d :: rest } = .next t) ∧
      (∀ (d : PortCycle) (more : List PortCycle), rest = d :: more → d.rst = false →
        step t = runEvents (decodeCycle d) { t with inputs := more })

/-- 10_state.md R55: after RESET, and after an INIT command, every piece of state holds the value of the table. -/
def Obligations.ResetAndInitLeaveTheResetValues : Prop :=
  (∀ c : Config, c.Legal → Spec.AtReset c (State.resetOf c)) ∧
    (∀ (s : State) (c : PortCycle) (rest : List PortCycle), s.cfg.Legal → s.inputs = c :: rest → c.rst = true →
      ∃ t, step s = .next t ∧ Spec.AtReset s.cfg t) ∧
    (∀ s : State, s.cfg.Legal → ∃ t, exec .init s = .next t ∧ Spec.AtReset s.cfg t)

/-- 60_exceptions.md R201: an illegal word writes `err` and `err_code` once and nothing else, whatever follows; no output pin and no
other read-port word shows it; and only CLR_ERR, INIT and RESET clear it. -/
def Obligations.CommandErrorIsStickyAndWritesNothingElse : Prop :=
  (∀ (w : Word) (e : CmdErr) (s : State), decodeWord w = .error e →
    ∃ t, runEvent (decodeWord w) s = .next t ∧ t.err = true ∧
      (s.err = false → t.errCode = e.code) ∧ (s.err = true → t = s) ∧
      { t with err := s.err, errCode := s.errCode } = s ∧
      (∀ a : BitVec 8, a ≠ 1 → readPort t a = readPort s a) ∧ t.out = s.out ∧ t.seqTick = s.seqTick) ∧
  (∀ s t : State, s.err = true → step s = .next t →
    (t.err = true ∧ t.errCode = s.errCode) ∨ s.nextInput.rst = true ∨
      (s.nextInput.cmdValid = true ∧
        (decodeWord s.nextInput.cmdData = .ok .clrErr ∨ decodeWord s.nextInput.cmdData = .ok .init)))

/-- With no strobe and no command nothing changes, for any number of cycles, whether they are given or no input waits
(60_exceptions.md R216): the inputs are used up (log entry 3), and a `seq_tick` pulse still shown ends after one cycle (log
entry 5). -/
def Obligations.QuietCyclesChangeNothing : Prop :=
  (∀ s : State, s.cfg.Legal → s.nextInput.rst = false → s.nextInput.cmdValid = false → s.nextInput.tickStrobe = false →
    s.nextInput.sampleStrobe = false → step s = .next { s with inputs := s.inputs.tail, seqTick := false }) ∧
  (∀ (s : State) (quiet rest : List PortCycle), s.cfg.Legal → s.inputs = quiet ++ rest → s.seqTick = false →
    (∀ c ∈ quiet, c.rst = false ∧ c.cmdValid = false ∧ c.tickStrobe = false ∧ c.sampleStrobe = false) →
    stepTimes quiet.length s = .next { s with inputs := rest }) ∧
  (∀ s : State, s.cfg.Legal → s.inputs = [] → s.seqTick = false → ∀ k, stepTimes k s = .next s)

/-- A configuration outside the ranges of 00_scope.md R8 describes no instance: the step is refused. The form of the refusal is the
model's (log entry 9). -/
def Obligations.IllegalConfigurationIsRefused : Prop :=
  ∀ s : State, ¬ s.cfg.Legal → step s = .refused .illegalConfig

/-- What `rd_addr` holds makes no difference to any state (20_memory.md R67). -/
def Obligations.ReadsHaveNoSideEffect : Prop :=
  ∀ (s : State) (c : PortCycle) (rest : List PortCycle) (a : BitVec 8),
    step { s with inputs := c :: rest } = step { s with inputs := { c with rdAddr := a } :: rest }

/-- No event and no cycle writes the configuration, and with it the three tables (20_memory.md R60). -/
def Obligations.TablesAndConfigurationAreNeverWritten : Prop :=
  (∀ (i : Instr) (s t : State), exec i s = .next t → t.cfg = s.cfg) ∧ (∀ s t : State, step s = .next t → t.cfg = s.cfg)

/-- `seq_tick` is shown after a cycle exactly when the cycle had a SAMPLE and neither RESET nor an INIT (46_sample_datapath.md R179,
70_reset_and_hazards.md R221). That an INIT of the same cycle takes the pulse back is the model's choice (log entry 5). -/
def Obligations.SeqTickFollowsExactlyTheSampleCycles : Prop :=
  ∀ s t : State, step s = .next t →
    (t.seqTick = true ↔ s.nextInput.rst = false ∧ s.nextInput.sampleStrobe = true ∧
      ¬ (s.nextInput.cmdValid = true ∧ decodeWord s.nextInput.cmdData = .ok .init))

/-! ### Invariants and whole-machine rules -/

/-- Every step keeps the invariant. -/
def Obligations.EveryStepKeepsTheInvariant : Prop :=
  ∀ s t : State, Sound s → step s = .next t → Sound t

/-- The state after RESET meets the invariant, in RC0 and in every legal instance. -/
def Obligations.ResetStateMeetsTheInvariant : Prop :=
  Sound State.reset ∧ ∀ c : Config, c.Legal → Sound (State.resetOf c)

/-- The machine never traps, halts or stops accepting events: from every state that meets the invariant, whatever the inputs, a step
gives a next state (60_exceptions.md R200). -/
def Obligations.MachineNeverStops : Prop :=
  ∀ s : State, Sound s → ∃ t, step s = .next t

/-- The claims (a) to (f) of 10_state.md R30, in every state a run from RESET reaches. The one instance left out of (d) is
LOOP_START = 2^24 - 1, above which no 24-bit `loop_end` lies (log entry 4); there the reads are in range all the same. -/
def Obligations.ReachableStatesMeetTheSlotClaims : Prop :=
  ∀ (c : Config) (s : State), Reachable c s →
    s.cfg = c ∧ s.voices.length = c.nVoices ∧ s.rr.toNat < c.nVoices ∧
      ∀ v ∈ s.voices,
        (v.env.vel.toNat ≤ c.maxv ∧ v.modEnv.vel.toNat ≤ c.maxv) ∧
        (c.voiceKind ≠ .wavetable → v.note ≠ 0#8 → v.env.state ≠ .idle) ∧
        (c.voiceKind = .wavetable → v.note ≠ 0#8 → 0 < v.level.toNat) ∧
        (c.voiceKind = .wavetable → v.note ≠ 0#8 → v.samplePos.toNat / 2 ^ 8 < c.wtLen ∧
          (c.loopStart < 2 ^ 24 - 1 → v.samplePos.toNat / 2 ^ 8 < v.loopEnd.toNat ∧ v.loopEnd.toNat ≤ c.wtLen)) ∧
        (v.note = 0#8 ∨ (1 ≤ v.note.toNat ∧ v.note.toNat ≤ 127))

/-- 40_voice_commands.md R117: `mvol` is written only by SET_MVOL, INIT and RESET. -/
def Obligations.MasterVolumeHasOnlyItsThreeWriters : Prop :=
  ∀ s t : State, step s = .next t → t.mvol ≠ s.mvol →
    s.nextInput.rst = true ∨
      (s.nextInput.cmdValid = true ∧
        (decodeWord s.nextInput.cmdData = .ok .init ∨ decodeWord s.nextInput.cmdData = .ok (.setMvol t.mvol)))

/-- Each global register is changed only by the operations 10_state.md R31 to R36 and 46_sample_datapath.md R180 name for it; INIT
apart, which writes them all. -/
def Obligations.GlobalRegistersHaveOnlyTheirWriters : Prop :=
  ∀ (i : Instr) (s t : State), i ≠ .init → exec i s = .next t →
    (t.rr ≠ s.rr → (∃ n, i = .noteOn n) ∧ ∀ v ∈ s.voices, v.note ≠ 0#8) ∧
    (t.mvol ≠ s.mvol → i = .setMvol t.mvol) ∧
    ((t.fmHr ≠ s.fmHr ∨ t.fmDepth ≠ s.fmDepth) → i = .setFm t.fmHr t.fmDepth) ∧
    (t.bipCount ≠ s.bipCount → i = .sample ∨ i = .bip t.bipCount) ∧
    (t.bipPhase ≠ s.bipPhase → i = .sample ∧ s.bipCount ≠ 0#16) ∧
    (t.out ≠ s.out → i = .sample) ∧
    ((t.err ≠ s.err ∨ t.errCode ≠ s.errCode) → i = .clrErr) ∧
    (t.seqTick ≠ s.seqTick → i = .sample) ∧
    t.inputs = s.inputs ∧ t.voices.length = s.voices.length

/-- Each field of a slot is changed only by the operations 10_state.md R21 to R28 name for it; INIT apart, which writes them all. -/
def Obligations.SlotFieldsHaveOnlyTheirWriters : Prop :=
  ∀ (i : Instr) (s t : State) (j : Nat) (v w : Voice), i ≠ .init → exec i s = .next t →
    s.voices[j]? = some v → t.voices[j]? = some w →
    (w.note ≠ v.note → (∃ n, i = .noteOn n ∧ w.note = n.setWidth 8) ∨ (i = .allOff ∧ w.note = 0#8) ∨ (i = .tick ∧ w.note = 0#8)) ∧
    ((w.step ≠ v.step ∨ w.modStep ≠ v.modStep ∨ w.modDepth ≠ v.modDepth ∨ w.sampleStep ≠ v.sampleStep ∨
      w.loopStart ≠ v.loopStart ∨ w.loopEnd ≠ v.loopEnd) → ∃ n, i = .noteOn n) ∧
    ((w.phase ≠ v.phase ∨ w.modPhase ≠ v.modPhase ∨ w.samplePos ≠ v.samplePos) → (∃ n, i = .noteOn n) ∨ i = .sample) ∧
    ((w.env ≠ v.env ∨ w.modEnv ≠ v.modEnv) → (∃ n, i = .noteOn n) ∨ (∃ n, i = .noteOff n) ∨ i = .tick) ∧
    (w.level ≠ v.level → (∃ n, i = .noteOn n) ∨ i = .tick) ∧
    (w.rel ≠ v.rel → (∃ n, i = .noteOn n) ∨ (∃ n, i = .noteOff n))

/-- No field a kind does not use affects `out` (10_state.md R29): two states that differ in such fields alone answer every operation
alike, with the same `out` and the same other registers, and still differ in such fields alone. -/
def Obligations.UnusedSlotFieldsAreNeverHeard : Prop :=
  ∀ (i : Instr) (s s' t : State), Spec.SameSound s s' → exec i s = .next t →
    ∃ t', exec i s' = .next t' ∧ Spec.SameSound t t' ∧ t'.out = t.out

/-! ### Commands -/

/-- 40_voice_commands.md R120: NOP is the all-zero word exactly and changes no state. -/
def Obligations.NopIsTheZeroWordAndChangesNothing : Prop :=
  (∀ w : Word, decodeWord w = .ok .nop ↔ w = 0x00000000#32) ∧ ∀ s : State, exec .nop s = .next s

/-- 40_voice_commands.md R131: INIT is the word 0x01000000 exactly; it leaves the reset values, as RESET does, and no `seq_tick`;
repeated it changes nothing more; and in RC0 STATUS then reads 0 and OUT 128. -/
def Obligations.InitReturnsToTheResetValues : Prop :=
  (∀ w : Word, decodeWord w = .ok .init ↔ w = 0x01000000#32) ∧
    ∀ s : State, s.cfg.Legal → ∃ t, exec .init s = .next t ∧ t.cfg = s.cfg ∧ Spec.AtReset s.cfg t ∧ exec .init t = .next t ∧
      (∀ c : PortCycle, c.rst = true → step { s with inputs := c :: s.inputs } = .next t) ∧
      (∀ k, s.cfg = Config.rc0 k → readPort t 1 = 0x00000000#32 ∧ readPort t 0 = 128#32)

/-- 40_voice_commands.md R104: notes 128 to 255 are illegal, and NOTE_ON 0 and NOTE_OFF 0 are legal commands that change no state and
raise no error. -/
def Obligations.NoteZeroDoesNothingAndNotesAbove127AreIllegal : Prop :=
  (∀ n : Nat, 128 ≤ n → n ≤ 255 →
    decodeWord (BitVec.ofNat 32 (0x02000000 + n)) = .error .noteRange ∧
    decodeWord (BitVec.ofNat 32 (0x03000000 + n)) = .error .noteRange) ∧
  (∀ n : Nat, n ≤ 127 →
    decodeWord (BitVec.ofNat 32 (0x02000000 + n)) = .ok (.noteOn (BitVec.ofNat 7 n)) ∧
    decodeWord (BitVec.ofNat 32 (0x03000000 + n)) = .ok (.noteOff (BitVec.ofNat 7 n))) ∧
  ∀ s : State, exec (.noteOn 0#7) s = .next s ∧ exec (.noteOff 0#7) s = .next s

/-- NOTE_ON n for a nonzero n completes, takes the slot 40_voice_commands.md R102 selects, moves `rr` only on a steal, and writes
every field of the slot as R103 says. Where LOOP_END = 2^24 the 24-bit register's value is open, but above LOOP_START where any is
(log entry 4). -/
def Obligations.NoteOnSelectsASlotAndInitialisesIt : Prop :=
  ∀ (s : State) (n : BitVec 7) (i : Nat) (v : Voice) (rr' : BitVec 4), s.cfg.Legal → n ≠ 0#7 → Spec.Selects s i rr' →
    s.voices[i]? = some v →
    ∃ (t : State) (u : Voice), exec (.noteOn n) s = .next t ∧ t.voices = s.voices.set i u ∧ t.rr = rr' ∧
      u.step.toNat = semiRead s.cfg (Fin.ofNat 12 n.toNat) * 2 ^ (n.toNat / 12) % 2 ^ 16 ∧
      u.phase = 0#16 ∧ u.env = ⟨.attack, 0#8⟩ ∧
      u.modStep.toNat = u.step.toNat * s.fmHr.toNat / 2 ^ s.cfg.hrFrac % 2 ^ 16 ∧
      u.modPhase = 0#16 ∧ u.modEnv = ⟨.attack, 0#8⟩ ∧ u.modDepth = s.fmDepth ∧
      u.sampleStep.toNat = u.step.toNat ∧ u.samplePos = 0#32 ∧
      u.loopStart.toNat = s.cfg.loopStart ∧ (s.cfg.loopEnd < 2 ^ 24 → u.loopEnd.toNat = s.cfg.loopEnd) ∧
      (s.cfg.loopStart < 2 ^ 24 - 1 → s.cfg.loopStart < u.loopEnd.toNat) ∧
      u.level.toNat = s.cfg.levelMax ∧ u.rel = false ∧ u.note.toNat = n.toNat

/-- The frame of NOTE_ON: every other slot and every other register is unchanged (40_voice_commands.md R100, R103). -/
def Obligations.NoteOnLeavesEverythingElse : Prop :=
  ∀ (s t : State) (n : BitVec 7), exec (.noteOn n) s = .next t →
    (∀ j, j ≠ slotFor s → t.voices[j]? = s.voices[j]?) ∧ t.voices.length = s.voices.length ∧
      t.cfg = s.cfg ∧ t.mvol = s.mvol ∧ t.fmHr = s.fmHr ∧ t.fmDepth = s.fmDepth ∧ t.bipCount = s.bipCount ∧
      t.bipPhase = s.bipPhase ∧ t.out = s.out ∧ t.err = s.err ∧ t.errCode = s.errCode ∧ t.seqTick = s.seqTick ∧
      t.inputs = s.inputs

/-- 60_exceptions.md R213: with every voice active NOTE_ON steals a slot: the note sounds, every voice is still active, and there is no
alert, no flag and no change to `err`. -/
def Obligations.FullPoolIsNoError : Prop :=
  ∀ (s : State) (n : BitVec 7), Sound s → n ≠ 0#7 → (∀ v ∈ s.voices, v.note ≠ 0#8) →
    ∃ t, exec (.noteOn n) s = .next t ∧ (∃ v, t.voices[s.rr.toNat]? = some v ∧ v.note = n.setWidth 8) ∧
      (∀ v ∈ t.voices, v.note ≠ 0#8) ∧ t.voices.length = s.voices.length ∧
      t.rr.toNat = (s.rr.toNat + 1) % s.cfg.nVoices ∧ t.err = s.err ∧ t.errCode = s.errCode ∧ t.bipCount = s.bipCount ∧
      t.out = s.out

/-- Where NOTE_ON stops, for whatever reason, which no state that meets the invariant is: no free slot, and `rr` names no slot (log
entry 7). -/
def Obligations.NoteOnStopsOnlyWithoutASlot : Prop :=
  ∀ (s : State) (n : BitVec 7),
    (∀ r, exec (.noteOn n) s = .fault r ↔
      r = .noSuchSlot ∧ n ≠ 0#7 ∧ (∀ v ∈ s.voices, v.note ≠ 0#8) ∧ s.voices.length ≤ s.rr.toNat) ∧
    ∀ r, exec (.noteOn n) s ≠ .refused r

/-- 40_voice_commands.md R109: every holder of n goes to Release with `vel` unchanged, whatever VOICE_KIND is, and nothing else
changes. -/
def Obligations.NoteOffReleasesEveryHolder : Prop :=
  ∀ (s : State) (n : BitVec 7), n ≠ 0#7 →
    exec (.noteOff n) s = .next { s with
      voices := s.voices.map fun v =>
        if v.note.toNat = n.toNat then
          { v with env := { v.env with state := .release }, modEnv := { v.modEnv with state := .release }, rel := true }
        else v }

/-- 40_voice_commands.md R112: ALL_OFF is the word 0x04000000 exactly; it clears every `note` and nothing else; with every voice free it
changes nothing; TICK does not advance the freed voices, and the next SAMPLE gets no voice contribution. -/
def Obligations.AllOffFreesEveryVoiceAndNothingElse : Prop :=
  (∀ w : Word, decodeWord w = .ok .allOff ↔ w = 0x04000000#32) ∧
    ∀ s : State, ∃ t, exec .allOff s = .next t ∧ t = { s with voices := s.voices.map fun v => { v with note := 0#8 } } ∧
      ((∀ v ∈ s.voices, v.note = 0#8) → t = s) ∧ exec .tick t = .next t ∧ voiceSum t.cfg t.voices = some 0

/-- SET_FM writes `fm_hr` and `fm_depth` and nothing else, in every kind: no sounding voice changes (40_voice_commands.md R114). -/
def Obligations.SetFmWritesOnlyTheFmRegisters : Prop :=
  (∀ (w : Word) (hr : BitVec 8) (depth : BitVec 4), decodeWord w = .ok (.setFm hr depth) ↔
    w = BitVec.ofNat 32 (0x05000000 + depth.toNat * 256 + hr.toNat)) ∧
  ∀ (s : State) (hr : BitVec 8) (depth : BitVec 4), exec (.setFm hr depth) s = .next { s with fmHr := hr, fmDepth := depth }

/-- SET_MVOL writes `mvol` and nothing else (40_voice_commands.md R116). -/
def Obligations.SetMvolWritesOnlyTheMasterVolume : Prop :=
  (∀ (w : Word) (l : BitVec 4), decodeWord w = .ok (.setMvol l) ↔ w = BitVec.ofNat 32 (0x06000000 + l.toNat)) ∧
  ∀ (s : State) (l : BitVec 4), exec (.setMvol l) s = .next { s with mvol := l }

/-- BIP replaces the count and keeps the phase; it writes nothing else (40_voice_commands.md R118). -/
def Obligations.BipReplacesTheCountAndKeepsThePhase : Prop :=
  (∀ (w : Word) (d : BitVec 16), decodeWord w = .ok (.bip d) ↔ w = BitVec.ofNat 32 (0x07000000 + d.toNat)) ∧
  ∀ (s : State) (d : BitVec 16), exec (.bip d) s = .next { s with bipCount := d }

/-- 40_voice_commands.md R133: CLR_ERR is the word 0x08000000 exactly; it clears `err` and `err_code` and nothing else; and the rule's
example in RC0. -/
def Obligations.ClrErrClearsTheErrorOnly : Prop :=
  (∀ w : Word, decodeWord w = .ok .clrErr ↔ w = 0x08000000#32) ∧
    (∀ s : State, exec .clrErr s = .next { s with err := false, errCode := 0#4 }) ∧
    ∃ t u, runEvent (decodeWord 0x09000000#32) State.reset = .next t ∧ readPort t 1 = 0x00000011#32 ∧
      exec .clrErr t = .next u ∧ readPort u 1 = 0x00000000#32

/-! ### Envelopes and TICK -/

/-- 45_envelope_tick.md R141: one arm per state, on the numbers themselves, with the stored value in 0 to MAXV. -/
def Obligations.EnvelopeAdvanceFollowsItsArms : Prop :=
  ∀ (maxv : Nat) (r : EnvRates) (e : Env), maxv ≤ 255 → r.Legal maxv →
    (e.state = .attack → e.vel.toNat + r.a ≥ maxv →
      (advance maxv r e).state = .decay ∧ (advance maxv r e).vel.toNat = maxv) ∧
    (e.state = .attack → e.vel.toNat + r.a < maxv →
      (advance maxv r e).state = .attack ∧ (advance maxv r e).vel.toNat = e.vel.toNat + r.a) ∧
    (e.state = .decay → (e.vel.toNat : Int) - r.d ≤ r.s →
      (advance maxv r e).state = .sustain ∧ (advance maxv r e).vel.toNat = r.s) ∧
    (e.state = .decay → (e.vel.toNat : Int) - r.d > r.s →
      (advance maxv r e).state = .decay ∧ ((advance maxv r e).vel.toNat : Int) = e.vel.toNat - r.d) ∧
    (e.state = .sustain → advance maxv r e = e) ∧
    (e.state = .release → (e.vel.toNat : Int) - r.r ≤ 0 → advance maxv r e = ⟨.idle, 0#8⟩) ∧
    (e.state = .release → (e.vel.toNat : Int) - r.r > 0 →
      (advance maxv r e).state = .release ∧ ((advance maxv r e).vel.toNat : Int) = e.vel.toNat - r.r) ∧
    (e.state = .idle → advance maxv r e = e)

/-- 45_envelope_tick.md R151: from (Attack, 0) the whole trajectory, tick by tick, through Decay to Sustain. -/
def Obligations.EnvelopeTrajectoryFromAttackToSustain : Prop :=
  ∀ (maxv : Nat) (r : EnvRates), maxv = 127 ∨ maxv = 255 → r.Legal maxv →
    (∀ k < Spec.ceilDiv maxv r.a,
      ((advance maxv r)^[k] ⟨.attack, 0#8⟩).state = .attack ∧ ((advance maxv r)^[k] ⟨.attack, 0#8⟩).vel.toNat = k * r.a) ∧
    (∀ j < max 1 (Spec.ceilDiv (maxv - r.s) r.d),
      ((advance maxv r)^[Spec.ceilDiv maxv r.a + j] ⟨.attack, 0#8⟩).state = .decay ∧
      ((advance maxv r)^[Spec.ceilDiv maxv r.a + j] ⟨.attack, 0#8⟩).vel.toNat = maxv - j * r.d) ∧
    (∀ j,
      ((advance maxv r)^[Spec.ceilDiv maxv r.a + max 1 (Spec.ceilDiv (maxv - r.s) r.d) + j] ⟨.attack, 0#8⟩).state = .sustain ∧
      ((advance maxv r)^[Spec.ceilDiv maxv r.a + max 1 (Spec.ceilDiv (maxv - r.s) r.d) + j] ⟨.attack, 0#8⟩).vel.toNat = r.s)

/-- 45_envelope_tick.md R147: TICK is one cycle with `tick_strobe = 1`; it does to each slot what the rule's pseudocode says, and
writes nothing else. -/
def Obligations.TickAdvancesActiveVoicesOnly : Prop :=
  (∀ c : PortCycle, c.rst = false → c.sampleStrobe = false → c.cmdValid = false →
    decodeCycle c = if c.tickStrobe then [.ok .tick] else []) ∧
  ∀ s : State, exec .tick s = .next { s with voices := s.voices.map (Spec.tickSlot s.cfg) }

/-- A SINE or FM voice released at amplitude v is freed exactly max(1, ceil(v / r)) TICKs after its NOTE_OFF, and not before
(45_envelope_tick.md R152, 90_conflicts.md C4), the TICKs coming one after another. -/
def Obligations.ReleasedVoiceIsFreedAfterExactlyItsTicks : Prop :=
  ∀ (s : State) (n : BitVec 7) (i : Nat) (v : Voice), s.cfg.Legal → s.cfg.voiceKind ≠ .wavetable → n ≠ 0#7 →
    s.voices[i]? = some v → v.note = n.setWidth 8 →
    ∃ t, exec (.noteOff n) s = .next t ∧
      ∀ k, ∃ (t' : State) (w : Voice), execTimes .tick k t = .next t' ∧ t'.voices[i]? = some w ∧
        (k < Spec.releaseTicks v.env.vel.toNat s.cfg.envCarrier.r →
          w.note = v.note ∧ w.env.state = .release ∧ w.env.vel.toNat = v.env.vel.toNat - k * s.cfg.envCarrier.r) ∧
        (Spec.releaseTicks v.env.vel.toNat s.cfg.envCarrier.r ≤ k → w.note = 0#8 ∧ w.env = ⟨.idle, 0#8⟩)

/-- A wavetable voice keeps its level on every TICK until its NOTE_OFF, and is freed exactly ceil(level / WT_DECAY) TICKs after it
(45_envelope_tick.md R150), the TICKs coming one after another. -/
def Obligations.WavetableLevelDecaysLinearlyToItsRelease : Prop :=
  ∀ (s : State) (n : BitVec 7) (i : Nat) (v : Voice), s.cfg.Legal → s.cfg.voiceKind = .wavetable → n ≠ 0#7 →
    s.voices[i]? = some v → v.note = n.setWidth 8 → v.level ≠ 0#8 →
    (v.rel = false → ∀ k, ∃ t, execTimes .tick k s = .next t ∧ t.voices[i]? = some v) ∧
    ∃ t, exec (.noteOff n) s = .next t ∧
      ∀ k, ∃ (t' : State) (w : Voice), execTimes .tick k t = .next t' ∧ t'.voices[i]? = some w ∧
        w.level.toNat = v.level.toNat - k * s.cfg.wtDecay ∧
        (k < Spec.ceilDiv v.level.toNat s.cfg.wtDecay → w.note = v.note) ∧
        (Spec.ceilDiv v.level.toNat s.cfg.wtDecay ≤ k → w.note = 0#8)

/-! ### SAMPLE -/

/-- 46_sample_datapath.md R180: SAMPLE completes and does what the rule's pseudocode says, for every kind and both settings of
OUT_OVERFLOW, and writes nothing else. -/
def Obligations.SampleComputesTheWholeMix : Prop :=
  ∀ s : State, s.cfg.Legal → Spec.Readable s →
    ∃ t, exec .sample s = .next t ∧
      (t.out.toNat : Int) = Spec.level s.cfg (Spec.total s / 2 ^ s.mvol.toNat) ∧
      t.bipCount.toNat = s.bipCount.toNat - 1 ∧
      t.bipPhase.toNat = (if s.bipCount = 0#16 then s.bipPhase.toNat else (s.bipPhase.toNat + s.cfg.bipStep) % 2 ^ 16) ∧
      t = { s with voices := s.voices.map (Spec.sampleSlot s.cfg), out := t.out, bipCount := t.bipCount,
                   bipPhase := t.bipPhase, seqTick := true }

/-- Where SAMPLE stops, for whatever reason, which no state that meets the invariant is: an active wavetable voice whose cursor lies
outside the ROM (log entry 8). -/
def Obligations.SampleStopsOnlyOnAReadOutsideTheRom : Prop :=
  ∀ s : State, (∀ r, exec .sample s = .fault r ↔ r = .wtReadOutOfRange ∧ ¬ Spec.Readable s) ∧ ∀ r, exec .sample s ≠ .refused r

/-- 46_sample_datapath.md R176: `asr` rounds toward minus infinity, so the magnitude never grows with the shift, strictly falls until it
is 0 (T ≥ 0) or 1 (T < 0), and then holds. -/
def Obligations.AttenuationRoundsDownAndIsMonotone : Prop :=
  (∀ (s : State) (S : Int), attenuated s S = asr (fdiv S s.cfg.nVoices + bipTone s) s.mvol.toNat) ∧
  ∀ T : Int, asr T 0 = T ∧ ∀ k : Nat,
    (2 ^ k * asr T k ≤ T ∧ T < 2 ^ k * (asr T k + 1)) ∧
    (asr T (k + 1)).natAbs ≤ (asr T k).natAbs ∧
    (0 ≤ T → asr T k ≠ 0 → (asr T (k + 1)).natAbs < (asr T k).natAbs) ∧
    (0 ≤ T → asr T k = 0 → asr T (k + 1) = 0) ∧
    (T < 0 → asr T k ≠ -1 → (asr T (k + 1)).natAbs < (asr T k).natAbs) ∧
    (T < 0 → asr T k = -1 → asr T (k + 1) = -1) ∧
    (T < 0 → asr T k < 0) ∧ (T < 0 → T.natAbs ≤ 2 ^ k → asr T k = -1)

/-- The output register holds the offset mix clamped or wrapped, always in its OUT_W bits (46_sample_datapath.md R177). -/
def Obligations.OutputLevelStaysInItsBits : Prop :=
  ∀ (c : Config) (ma : Int), c.Legal →
    ((outputLevel c ma).toNat : Int) = Spec.level c ma ∧ (outputLevel c ma).toNat < 2 ^ c.outW

/-- 46_sample_datapath.md R181: in every legal instance the products and sums fit a 16-bit signed accumulator. -/
def Obligations.EveryIntermediateFitsSixteenBits : Prop :=
  ∀ s : State, Sound s →
    (∀ (x : BitVec 8) (l : BitVec 8), (sineRead s.cfg x * l.toNat).natAbs ≤ 128 * 255 ∧
      -32640 ≤ sineRead s.cfg x * l.toNat ∧ sineRead s.cfg x * l.toNat ≤ 32385) ∧
    (∀ v : Voice, (fmOffset s.cfg v).natAbs ≤ 128 * 255) ∧
    (∀ S, voiceSum s.cfg s.voices = some S →
      S.natAbs ≤ s.cfg.nVoices * 128 ∧
      ∀ x ∈ [S, fdiv S s.cfg.nVoices, bipTone s, fdiv S s.cfg.nVoices + bipTone s, attenuated s S,
        attenuated s S + s.cfg.outOffset], -2 ^ 15 ≤ x ∧ x < 2 ^ 15)

/-- A bip sounds for exactly the next d SAMPLE events: before each of them its tone is the scaled sine at its phase, after them 0, and
the phase moves by BIP_STEP in each of them and in no other (46_sample_datapath.md R174). -/
def Obligations.BipSoundsForExactlyItsSamples : Prop :=
  ∀ (s : State) (d : BitVec 16), Sound s → ∃ t, exec (.bip d) s = .next t ∧
    ∀ k, ∃ t', execTimes .sample k t = .next t' ∧ t'.bipCount.toNat = d.toNat - k ∧
      t'.bipPhase.toNat = (s.bipPhase.toNat + min k d.toNat * s.cfg.bipStep) % 2 ^ 16 ∧
      (k < d.toNat → bipTone t' = sineRead s.cfg (t'.bipPhase.extractLsb' 8 8) / 2 ^ s.cfg.bipShift) ∧
      (d.toNat ≤ k → bipTone t' = 0)

/-- An active wavetable cursor is always left below the voice's `loop_end`, and one that reaches it restarts at `loop_start` with
fraction 0 (46_sample_datapath.md R164). -/
def Obligations.WavetableCursorStaysInItsLoop : Prop :=
  ∀ v : Voice, v.loopStart.toNat < v.loopEnd.toNat →
    (loopAdvance v).toNat / 2 ^ 8 < v.loopEnd.toNat ∧
    (v.loopEnd.toNat ≤ (v.samplePos.toNat + v.sampleStep.toNat) % 2 ^ 32 / 2 ^ 8 →
      (loopAdvance v).toNat = v.loopStart.toNat * 2 ^ 8) ∧
    ((v.samplePos.toNat + v.sampleStep.toNat) % 2 ^ 32 / 2 ^ 8 < v.loopEnd.toNat →
      (loopAdvance v).toNat = (v.samplePos.toNat + v.sampleStep.toNat) % 2 ^ 32)

/-- The order in which the slots are visited does not change `out` (46_sample_datapath.md R165): states whose slots are a
permutation of each other give the same output and permuted slots. -/
def Obligations.SlotOrderDoesNotChangeTheSample : Prop :=
  ∀ (s t : State) (vs : List Voice), s.voices.Perm vs → exec .sample s = .next t →
    ∃ t', exec .sample { s with voices := vs } = .next t' ∧ t'.out = t.out ∧ t.voices.Perm t'.voices ∧
      { t' with voices := [] } = { t with voices := [] }

/-- After ALL_OFF and with no bip the next SAMPLE writes the silent level, whatever the voices were doing (40_voice_commands.md R112,
R113). -/
def Obligations.SampleAfterAllOffIsSilent : Prop :=
  ∀ s : State, s.cfg.Legal → s.bipCount = 0#16 →
    ∃ t u, exec .allOff s = .next t ∧ exec .sample t = .next u ∧ u.out.toNat = 2 ^ (s.cfg.outW - 1)

/-- With RC0's 8-bit output every `mvol` of 8 or more gives an output of 127 or 128 (40_voice_commands.md R116). -/
def Obligations.StrongAttenuationLeavesOnlyTwoLevels : Prop :=
  ∀ (s t : State) (k : VoiceKind), s.cfg = Config.rc0 k → s.voices.length = 4 → 8 ≤ s.mvol.toNat → exec .sample s = .next t →
    t.out.toNat = 127 ∨ t.out.toNat = 128

/-! ### The read port -/

/-- 10_state.md R42, R44, R45: the words OUT, CFG and BIP, field by field, the other bits reading 0. -/
def Obligations.OutCfgAndBipReadTheirRegisters : Prop :=
  ∀ s : State,
    (s.out.toNat < 2 ^ s.cfg.outW → (readPort s 0).toNat = s.out.toNat) ∧
    (readPort s 2).extractLsb' 0 4 = s.mvol ∧ (readPort s 2).extractLsb' 4 4 = 0#4 ∧
    (readPort s 2).extractLsb' 8 8 = s.fmHr ∧ (readPort s 2).extractLsb' 16 4 = s.fmDepth ∧
    (readPort s 2).extractLsb' 20 12 = 0#12 ∧
    (readPort s 3).extractLsb' 0 16 = s.bipCount ∧ (readPort s 3).extractLsb' 16 16 = s.bipPhase

/-- 10_state.md R43: every field of STATUS. -/
def Obligations.StatusShowsErrorBipPointerAndActivity : Prop :=
  ∀ s : State, s.cfg.nVoices ≤ 15 → s.voices.length = s.cfg.nVoices →
    ((readPort s 1).getLsbD 0 = s.err ∧ (readPort s 1).extractLsb' 1 3 = 0#3 ∧ (readPort s 1).extractLsb' 4 4 = s.errCode ∧
      ((readPort s 1).getLsbD 8 = true ↔ s.bipCount ≠ 0#16) ∧ (readPort s 1).extractLsb' 9 3 = 0#3 ∧
      (readPort s 1).extractLsb' 12 4 = s.rr ∧ (readPort s 1).getLsbD 31 = false) ∧
    ∀ i < 15, ((readPort s 1).getLsbD (16 + i) = true ↔ ∃ v, s.voices[i]? = some v ∧ v.note ≠ 0#8)

/-- 10_state.md R47: every field of ID, constant for a configuration. -/
def Obligations.IdShowsTheConfiguration : Prop :=
  ∀ s : State, s.cfg.Legal →
    ((readPort s 4).extractLsb' 0 8).toNat = s.cfg.nVoices ∧
    ((readPort s 4).extractLsb' 8 2).toNat =
      (match s.cfg.voiceKind with | .sine => 0 | .fm => 1 | .wavetable => 2) ∧
    (readPort s 4).extractLsb' 10 2 = 0#2 ∧ ((readPort s 4).extractLsb' 12 4).toNat = s.cfg.outW ∧
    ((readPort s 4).getLsbD 16 = true ↔ s.cfg.maxv = 255) ∧ (readPort s 4).extractLsb' 17 7 = 0#7 ∧
    (readPort s 4).extractLsb' 24 8 = 0x01#8 ∧
    ∀ t : State, t.cfg = s.cfg → readPort t 4 = readPort s 4

/-- 10_state.md R48: the ten registers of a voice block, field by field, the envelope states by their codes (R25), and its reserved
words reading 0. -/
def Obligations.VoiceBlockReadsItsSlot : Prop :=
  ∀ (s : State) (i : Nat) (v : Voice) (r : Nat → Word), i < s.cfg.nVoices → s.cfg.nVoices ≤ 15 → s.voices[i]? = some v →
    (∀ k < 16, r k = readPort s (BitVec.ofNat 8 (0x10 + 16 * i + k))) →
    (r 0).toNat = v.note.toNat ∧
    (r 1).extractLsb' 0 16 = v.step ∧ (r 1).extractLsb' 16 16 = v.modStep ∧
    (r 2).extractLsb' 0 16 = v.phase ∧ (r 2).extractLsb' 16 16 = v.modPhase ∧
    ((r 3).extractLsb' 0 3 = Spec.envCode v.env.state ∧ (r 3).extractLsb' 3 5 = 0#5 ∧ (r 3).extractLsb' 8 8 = v.env.vel ∧
      (r 3).extractLsb' 16 3 = Spec.envCode v.modEnv.state ∧ (r 3).extractLsb' 19 5 = 0#5 ∧ (r 3).extractLsb' 24 8 = v.modEnv.vel) ∧
    (r 4).toNat = v.modDepth.toNat ∧ r 5 = v.samplePos ∧
    ((r 6).extractLsb' 0 8 = v.level ∧ (r 6).getLsbD 8 = v.rel ∧ (r 6).extractLsb' 9 23 = 0#23) ∧
    (r 7).toNat = v.loopStart.toNat ∧ (r 8).toNat = v.loopEnd.toNat ∧ r 9 = v.sampleStep ∧
    (∀ k, 10 ≤ k → k < 16 → r k = 0#32)

/-- 10_state.md R49 and the reserved addresses of R41: absent voices and addresses 0x05 to 0x0F read 0. -/
def Obligations.AbsentVoicesAndReservedAddressesReadZero : Prop :=
  ∀ (s : State),
    (∀ i k : Nat, s.cfg.nVoices ≤ i → k < 16 → 0x10 + 16 * i + k ≤ 0xFF →
      readPort s (BitVec.ofNat 8 (0x10 + 16 * i + k)) = 0#32) ∧
    (∀ a : BitVec 8, 0x05 ≤ a.toNat → a.toNat ≤ 0x0F → readPort s a = 0#32)

/-! ### The tables -/

/-- The reads of the three read-only tables (20_memory.md R61 to R63) and ENV_SHIFT (00_scope.md R8): `SineRead` and `WtRead` answer a
signed byte, `WtRead` exactly below WT_LEN, `SemiRead` an unsigned entry; a canonical list reads as its entries and 0 elsewhere, and
the list of given bytes is canonical and reads as them (the form of the list is the model's, log entry 12); and entries of RC0's
tables. -/
def Obligations.TableReadsAnswerTheirEntries : Prop :=
  (∀ (c : Config) (i : BitVec 8), sineRead c i = Spec.sext8 (c.sineTable[i.toNat]'i.isLt)) ∧
    (∀ (c : Config) (k : Fin 12), semiRead c k = c.semiTable[k].toNat) ∧
    (∀ (c : Config) (a : Nat), (a < c.wtLen → wtRead c a = some (Spec.sext8 (Memory.read c.wtData a))) ∧
      (c.wtLen ≤ a → wtRead c a = none)) ∧
    (∀ m : List Host.Cell, Memory.wf m = true → ∀ a : Nat,
      (∀ x : Byte, (a, x) ∈ m → Memory.read m a = x) ∧ ((∀ x : Byte, (a, x) ∉ m) → Memory.read m a = 0#8)) ∧
    (∀ xs : List Byte, Memory.wf (Memory.ofBytes 0 xs) = true ∧ ∀ a : Nat, Memory.read (Memory.ofBytes 0 xs) a = xs[a]?.getD 0#8) ∧
    (∀ c : Config, (c.maxv = 127 → c.envShift = 7) ∧ (c.maxv = 255 → c.envShift = 8)) ∧
    ∀ k : VoiceKind,
      (Config.rc0 k).semiTable.toList = [34#16, 36#16, 38#16, 41#16, 43#16, 46#16, 48#16, 51#16, 54#16, 58#16, 61#16, 65#16] ∧
      sineRead (Config.rc0 k) 0 = 0 ∧ sineRead (Config.rc0 k) 7 = 22 ∧ sineRead (Config.rc0 k) 28 = 81 ∧
      sineRead (Config.rc0 k) 64 = 127 ∧ sineRead (Config.rc0 k) 192 = -127 ∧ sineRead (Config.rc0 k) 255 = -3
end

