-- ==== Sys2Proof/Laws/Arith.lean ====
section
/-!
SUPPORT. The integer primitives of 00_scope.md R11 in terms that `omega` and `simp` know, and the bounds of the table reads.
-/

namespace Sys2Proof.Machine

theorem fdiv_eq_div (x : Int) (n : Nat) : fdiv x n = x / n := by
  rw [fdiv, Int.fdiv_eq_ediv_of_nonneg _ (by omega)]

theorem asr_eq_div (x : Int) (k : Nat) : asr x k = x / 2 ^ k := by
  rw [asr, fdiv_eq_div]; norm_cast

@[simp] theorem asr_zero (k : Nat) : asr 0 k = 0 := by simp [asr_eq_div]

/-- Two shifts are one shift by the sum. -/
theorem asr_asr (x : Int) (j k : Nat) : asr (asr x j) k = asr x (j + k) := by
  rw [asr_eq_div, asr_eq_div, asr_eq_div, pow_add, Int.ediv_ediv_of_nonneg (by positivity)]

/-- A shift lies between the bounds that its operand lies between, when they straddle 0. -/
theorem asr_mem {x lo hi : Int} (k : Nat) (hlo : lo ≤ 0) (hhi : 0 ≤ hi) (h : lo ≤ x ∧ x ≤ hi) : lo ≤ asr x k ∧ asr x k ≤ hi := by
  rw [asr_eq_div]
  have hp : (1 : Int) ≤ 2 ^ k := one_le_pow₀ (by norm_num)
  constructor
  · rw [Int.le_ediv_iff_mul_le (by omega)]; nlinarith
  · have : x / 2 ^ k < hi + 1 := by rw [Int.ediv_lt_iff_lt_mul (by omega)]; nlinarith
    omega

/-- The number a register of `w` bits holds after a store of an integer that fits. -/
theorem toNat_ofInt_of_fits {w : Nat} {x : Int} (h0 : 0 ≤ x) (h1 : x < 2 ^ w) : ((BitVec.ofInt w x).toNat : Int) = x := by
  have hc : ((2 ^ w : Nat) : Int) = 2 ^ w := by norm_cast
  rw [BitVec.toNat_ofInt, hc, Int.emod_eq_of_lt h0 h1, Int.toNat_of_nonneg h0]

theorem sineRead_mem (c : Config) (i : BitVec 8) : -128 ≤ sineRead c i ∧ sineRead c i ≤ 127 := by
  unfold sineRead
  generalize c.sineTable[i.toNat] = b
  have h1 := BitVec.le_toInt b
  have h2 := BitVec.toInt_lt (x := b)
  norm_num at h1 h2
  omega

theorem wtRead_mem {c : Config} {a : Nat} {b : Int} (h : wtRead c a = some b) : -128 ≤ b ∧ b ≤ 127 := by
  unfold wtRead at h
  split at h
  · cases h
    generalize Memory.read c.wtData a = b
    have h1 := BitVec.le_toInt b
    have h2 := BitVec.toInt_lt (x := b)
    norm_num at h1 h2
    omega
  · cases h

/-- `WtRead` is defined exactly below WT_LEN. -/
theorem wtRead_isSome (c : Config) (a : Nat) : (wtRead c a).isSome = true ↔ a < c.wtLen := by
  unfold wtRead; split <;> simp_all

theorem toNat_posByte (p : BitVec 32) : (posByte p).toNat = p.toNat / 2 ^ 8 := by
  unfold posByte; simp [BitVec.extractLsb', Nat.shiftRight_eq_div_pow]; omega

theorem toNat_phaseIndex (p : BitVec 16) : (phaseIndex p).toNat = p.toNat / 2 ^ 8 := by
  unfold phaseIndex; simp [BitVec.extractLsb', Nat.shiftRight_eq_div_pow]; omega

@[simp] theorem Voice.active_iff (v : Voice) : v.active = true ↔ v.note ≠ 0#8 := by simp [Voice.active]

@[simp] theorem State.bipActive_iff (s : State) : s.bipActive = true ↔ s.bipCount ≠ 0#16 := by simp [State.bipActive]

end Sys2Proof.Machine
end

