-- ==== Sys2Proof/Laws/Config.lean ====
section
/-!
SUPPORT. What a legal configuration gives, one lemma per constraint of 00_scope.md R8; and the laws of a canonical byte array.
-/

namespace Sys2Proof

section Rates
variable {e : EnvRates} {m : Nat} (h : e.Legal m)
include h
theorem EnvRates.Legal.attack : 1 ≤ e.a ∧ e.a ≤ 255 := h.1
theorem EnvRates.Legal.decay : 1 ≤ e.d ∧ e.d ≤ 255 := h.2.1
theorem EnvRates.Legal.release : 1 ≤ e.r ∧ e.r ≤ 255 := h.2.2.1
theorem EnvRates.Legal.sustain : e.s ≤ m := h.2.2.2
end Rates

section Legal
variable {c : Config} (h : c.Legal)
include h
theorem Config.Legal.nVoices : 1 ≤ c.nVoices ∧ c.nVoices ≤ 15 := h.1
theorem Config.Legal.maxv : c.maxv = 127 ∨ c.maxv = 255 := h.2.1
theorem Config.Legal.carrier : c.envCarrier.Legal c.maxv := h.2.2.1.1
theorem Config.Legal.modulator : c.envMod.Legal c.maxv := h.2.2.1.2
theorem Config.Legal.fmReset : c.hrFrac ≤ 7 ∧ c.fmHrReset ≤ 255 ∧ c.fmDepthReset ≤ 15 := h.2.2.2.1
theorem Config.Legal.rom : c.RomLegal := h.2.2.2.2.1
theorem Config.Legal.levelMax : 1 ≤ c.levelMax ∧ c.levelMax ≤ c.maxv := h.2.2.2.2.2.1
theorem Config.Legal.wtDecay : 1 ≤ c.wtDecay ∧ c.wtDecay ≤ 255 := h.2.2.2.2.2.2.1
theorem Config.Legal.bipStep : 1 ≤ c.bipStep ∧ c.bipStep ≤ 65535 := h.2.2.2.2.2.2.2.1
theorem Config.Legal.bipShift : c.bipShift ≤ 7 := h.2.2.2.2.2.2.2.2.1
theorem Config.Legal.outW : c.outW = 8 ∨ c.outW = 9 ∨ c.outW = 10 := h.2.2.2.2.2.2.2.2.2
theorem Config.Legal.wtLen : 1 ≤ c.wtLen ∧ c.wtLen ≤ 2 ^ 24 := h.rom.1
theorem Config.Legal.loop : c.loopStart < c.loopEnd ∧ c.loopEnd ≤ c.wtLen := h.rom.2.1

theorem Config.Legal.maxv_le : c.maxv ≤ 255 := by rcases h.maxv with h | h <;> omega

theorem Config.Legal.envShift : c.envShift = 7 ∧ c.maxv = 127 ∨ c.envShift = 8 ∧ c.maxv = 255 := by
  rcases h.maxv with h | h <;> simp [Config.envShift, h] <;> decide

theorem Config.Legal.outOffset : c.outOffset ≤ 512 ∧ c.outOffset < 2 ^ c.outW := by
  rcases h.outW with h | h | h <;> simp [Config.outOffset, h]
end Legal

/-- Every address of a canonical array built from `a` on is at or above `a`. -/
theorem Memory.ofBytes_ge (xs : List Byte) (a : Nat) : ∀ p ∈ Memory.ofBytes a xs, a ≤ p.1 := by
  induction xs generalizing a with
  | nil => simp [Memory.ofBytes]
  | cons x xs ih =>
    intro p hp
    rw [Memory.ofBytes] at hp
    split at hp
    · have := ih _ p hp; omega
    · rcases List.mem_cons.1 hp with rfl | hp
      · exact Nat.le_refl _
      · have := ih _ p hp; omega

/-- The array built from bytes is canonical. -/
theorem Memory.ofBytes_wf (xs : List Byte) (a : Nat) : Memory.wf (Memory.ofBytes a xs) = true := by
  induction xs generalizing a with
  | nil => rfl
  | cons x xs ih =>
    rw [Memory.ofBytes]
    split
    · exact ih _
    · rename_i hx
      have h := ih (a + 1)
      have hge := Memory.ofBytes_ge xs (a + 1)
      cases hm : Memory.ofBytes (a + 1) xs with
      | nil => simp [Memory.wf, hx]
      | cons c m =>
        rw [hm] at h hge
        have := hge c (by simp)
        simp [Memory.wf, hx, h]
        omega

/-- The array built from bytes reads as the bytes, and 0 outside them. -/
theorem Memory.read_ofBytes (xs : List Byte) (a b : Nat) :
    Memory.read (Memory.ofBytes a xs) b = if a ≤ b then xs[b - a]?.getD 0 else 0 := by
  induction xs generalizing a with
  | nil => simp [Memory.ofBytes, Memory.read]
  | cons x xs ih =>
    rw [Memory.ofBytes]
    rcases Nat.lt_trichotomy b a with hb | rfl | hb
    · split <;> simp [Memory.read, ih, show ¬ a ≤ b by omega, show ¬ a + 1 ≤ b by omega, show ¬ b = a by omega]
    · split <;> rename_i hx <;> simp [Memory.read, ih, hx]
    · obtain ⟨k, rfl⟩ : ∃ k, b = a + (k + 1) := ⟨b - a - 1, by omega⟩
      split <;> simp [Memory.read, ih, show a + 1 ≤ a + (k + 1) by omega, show a + (k + 1) - (a + 1) = k by omega]

end Sys2Proof
end

