-- ==== Sys2Proof/Laws/Decode.lean ====
section
/-!
SUPPORT. The decoder's laws: the opcode map, what a row's match leaves of an operand, what decoding can answer, and that a word
which passes the checks is its row's match with its operand bits.
-/

namespace Sys2Proof

/-- A field that is an opcode is the top byte of its row's match. -/
theorem Opcode.ofField_eq_some {f : BitVec 8} {o : Opcode} (h : Opcode.ofField f = some o) :
    f = o.rowMatch.extractLsb' 24 8 := by
  revert o f; decide

/-- The top byte of a row's match is its opcode. -/
theorem Opcode.ofField_rowMatch (o : Opcode) : Opcode.ofField (o.rowMatch.extractLsb' 24 8) = some o := by
  cases o <;> rfl

/-- The reserved opcodes are 0x09 and above. -/
theorem Opcode.ofField_eq_none {f : BitVec 8} : Opcode.ofField f = none ↔ 0x09#8 ≤ f := by
  revert f; decide

/-- The opcode field of a row's match with operand bits below bit 24. -/
theorem opcField_or (o : Opcode) {k : Nat} (x : BitVec k) (hk : k ≤ 24) :
    opcField (o.rowMatch ||| x.setWidth 32) = o.rowMatch.extractLsb' 24 8 := by
  apply BitVec.eq_of_getLsbD_eq
  intro i hi
  simp only [opcField, BitVec.getLsbD_extractLsb', BitVec.getLsbD_or, BitVec.getLsbD_setWidth]
  simp [BitVec.getLsbD_of_ge x (24 + i) (by omega)]

/-- The operand of a row's match whose bits below `k` are 0. -/
theorem extract_or (o : Opcode) {k : Nat} (x : BitVec k) (hk : k ≤ 32) (h : o.rowMatch.extractLsb' 0 k = 0#k) :
    (o.rowMatch ||| x.setWidth 32).extractLsb' 0 k = x := by
  apply BitVec.eq_of_getLsbD_eq
  intro i hi
  have := congrArg (fun y => BitVec.getLsbD y i) h
  simp only [BitVec.getLsbD_extractLsb', BitVec.getLsbD_zero] at this
  simp only [BitVec.getLsbD_extractLsb', BitVec.getLsbD_or, BitVec.getLsbD_setWidth, hi, decide_true, Bool.true_and,
    Nat.zero_add] at this ⊢
  simp [this]; omega

/-- A word that passes the three checks decodes to its row's command. -/
theorem decodeWord_ok {w : Word} {o : Opcode} (h : Opcode.ofField (opcField w) = some o)
    (hr : w &&& o.reservedBits = 0#32) (hn : o.takesNote = true → w.getLsbD 7 = false) : decodeWord w = .ok (o.instr w) := by
  simp only [decodeWord, h, hr]
  cases ht : o.takesNote <;> simp_all

/-- What decoding can answer, check by check. -/
theorem decodeWord_cases (w : Word) :
    (Opcode.ofField (opcField w) = none ∧ decodeWord w = .error .reservedOpcode) ∨
    ∃ o, Opcode.ofField (opcField w) = some o ∧
      ((w &&& o.reservedBits ≠ 0#32 ∧ decodeWord w = .error .reservedOperand) ∨
       (w &&& o.reservedBits = 0#32 ∧ o.takesNote = true ∧ w.getLsbD 7 = true ∧ decodeWord w = .error .noteRange) ∨
       (w &&& o.reservedBits = 0#32 ∧ (o.takesNote = true → w.getLsbD 7 = false) ∧ decodeWord w = .ok (o.instr w))) := by
  cases h : Opcode.ofField (opcField w) with
  | none => exact .inl ⟨rfl, by simp [decodeWord, h]⟩
  | some o =>
    refine .inr ⟨o, rfl, ?_⟩
    by_cases hr : w &&& o.reservedBits = 0#32
    · cases ht : o.takesNote <;> cases h7 : w.getLsbD 7 <;> simp_all [decodeWord]
    · exact .inl ⟨hr, by simp [decodeWord, h, hr]⟩

/-- A word is its row's match with its operand bits: what the checks leave. -/
theorem word_eq {w : Word} {o : Opcode} (h : Opcode.ofField (opcField w) = some o) (hr : w &&& o.reservedBits = 0#32)
    (hn : o.takesNote = true → w.getLsbD 7 = false) : w = o.rowMatch ||| (w &&& ~~~ o.rowMask) := by
  have h := Opcode.ofField_eq_some h
  apply BitVec.eq_of_getLsbD_eq
  intro i hi
  have h0 := fun j => congrArg (fun y => BitVec.getLsbD y j) h
  have h1 := fun j => congrArg (fun y => BitVec.getLsbD y j) hr
  simp only [opcField, BitVec.getLsbD_extractLsb', BitVec.getLsbD_and, BitVec.getLsbD_zero] at h0 h1
  by_cases hi24 : 24 ≤ i
  · obtain ⟨j, rfl⟩ := Nat.exists_eq_add_of_le hi24
    have := h0 j
    simp only [show j < 8 by omega, decide_true, Bool.true_and] at this
    simp only [BitVec.getLsbD_or, BitVec.getLsbD_and, BitVec.getLsbD_not, this, hi]
    have hj : j < 8 := by omega
    interval_cases j <;> cases o <;> simp [Opcode.rowMatch, Opcode.rowMask]
  · have h1 := h1 i
    clear h0 hr h
    simp only [BitVec.getLsbD_or, BitVec.getLsbD_and, BitVec.getLsbD_not, hi, decide_true, Bool.true_and]
    have hi : i < 24 := by omega
    cases o <;> simp only [Opcode.takesNote, reduceCtorEq, false_implies, true_implies] at hn <;>
      simp only [Opcode.rowMatch, Opcode.rowMask, Opcode.reservedBits, Opcode.takesNote, if_true, if_false, reduceCtorEq] at h1 ⊢ <;>
      interval_cases i <;> simp at h1 ⊢ <;> assumption

end Sys2Proof
end

