-- ==== Sys2Proof/Laws/State.lean ====
section
/-!
SUPPORT. One lemma per field per setter, so that no proof unfolds a record update: a setter gives its own field the new value
and leaves every other field alone. Then the fields of the shared whole-state operations.
-/

namespace Sys2Proof.Machine

section setVoices
variable (s : State) (x : List Voice)
@[simp] theorem State.setVoices_cfg : (s.setVoices x).cfg = s.cfg := rfl
@[simp] theorem State.setVoices_voices : (s.setVoices x).voices = x := rfl
@[simp] theorem State.setVoices_rr : (s.setVoices x).rr = s.rr := rfl
@[simp] theorem State.setVoices_mvol : (s.setVoices x).mvol = s.mvol := rfl
@[simp] theorem State.setVoices_fmHr : (s.setVoices x).fmHr = s.fmHr := rfl
@[simp] theorem State.setVoices_fmDepth : (s.setVoices x).fmDepth = s.fmDepth := rfl
@[simp] theorem State.setVoices_bipCount : (s.setVoices x).bipCount = s.bipCount := rfl
@[simp] theorem State.setVoices_bipPhase : (s.setVoices x).bipPhase = s.bipPhase := rfl
@[simp] theorem State.setVoices_out : (s.setVoices x).out = s.out := rfl
@[simp] theorem State.setVoices_err : (s.setVoices x).err = s.err := rfl
@[simp] theorem State.setVoices_errCode : (s.setVoices x).errCode = s.errCode := rfl
@[simp] theorem State.setVoices_seqTick : (s.setVoices x).seqTick = s.seqTick := rfl
@[simp] theorem State.setVoices_inputs : (s.setVoices x).inputs = s.inputs := rfl
@[simp] theorem State.setVoices_freeCount : (s.setVoices x).freeCount = s.freeCount := rfl
end setVoices

section setRr
variable (s : State) (x : BitVec 4)
@[simp] theorem State.setRr_cfg : (s.setRr x).cfg = s.cfg := rfl
@[simp] theorem State.setRr_voices : (s.setRr x).voices = s.voices := rfl
@[simp] theorem State.setRr_rr : (s.setRr x).rr = x := rfl
@[simp] theorem State.setRr_mvol : (s.setRr x).mvol = s.mvol := rfl
@[simp] theorem State.setRr_fmHr : (s.setRr x).fmHr = s.fmHr := rfl
@[simp] theorem State.setRr_fmDepth : (s.setRr x).fmDepth = s.fmDepth := rfl
@[simp] theorem State.setRr_bipCount : (s.setRr x).bipCount = s.bipCount := rfl
@[simp] theorem State.setRr_bipPhase : (s.setRr x).bipPhase = s.bipPhase := rfl
@[simp] theorem State.setRr_out : (s.setRr x).out = s.out := rfl
@[simp] theorem State.setRr_err : (s.setRr x).err = s.err := rfl
@[simp] theorem State.setRr_errCode : (s.setRr x).errCode = s.errCode := rfl
@[simp] theorem State.setRr_seqTick : (s.setRr x).seqTick = s.seqTick := rfl
@[simp] theorem State.setRr_inputs : (s.setRr x).inputs = s.inputs := rfl
@[simp] theorem State.setRr_freeCount : (s.setRr x).freeCount = s.freeCount := rfl
end setRr

section setMvol
variable (s : State) (x : BitVec 4)
@[simp] theorem State.setMvol_cfg : (s.setMvol x).cfg = s.cfg := rfl
@[simp] theorem State.setMvol_voices : (s.setMvol x).voices = s.voices := rfl
@[simp] theorem State.setMvol_rr : (s.setMvol x).rr = s.rr := rfl
@[simp] theorem State.setMvol_mvol : (s.setMvol x).mvol = x := rfl
@[simp] theorem State.setMvol_fmHr : (s.setMvol x).fmHr = s.fmHr := rfl
@[simp] theorem State.setMvol_fmDepth : (s.setMvol x).fmDepth = s.fmDepth := rfl
@[simp] theorem State.setMvol_bipCount : (s.setMvol x).bipCount = s.bipCount := rfl
@[simp] theorem State.setMvol_bipPhase : (s.setMvol x).bipPhase = s.bipPhase := rfl
@[simp] theorem State.setMvol_out : (s.setMvol x).out = s.out := rfl
@[simp] theorem State.setMvol_err : (s.setMvol x).err = s.err := rfl
@[simp] theorem State.setMvol_errCode : (s.setMvol x).errCode = s.errCode := rfl
@[simp] theorem State.setMvol_seqTick : (s.setMvol x).seqTick = s.seqTick := rfl
@[simp] theorem State.setMvol_inputs : (s.setMvol x).inputs = s.inputs := rfl
@[simp] theorem State.setMvol_freeCount : (s.setMvol x).freeCount = s.freeCount := rfl
end setMvol

section setFm
variable (s : State) (x : BitVec 8) (y : BitVec 4)
@[simp] theorem State.setFm_cfg : (s.setFm x y).cfg = s.cfg := rfl
@[simp] theorem State.setFm_voices : (s.setFm x y).voices = s.voices := rfl
@[simp] theorem State.setFm_rr : (s.setFm x y).rr = s.rr := rfl
@[simp] theorem State.setFm_mvol : (s.setFm x y).mvol = s.mvol := rfl
@[simp] theorem State.setFm_fmHr : (s.setFm x y).fmHr = x := rfl
@[simp] theorem State.setFm_fmDepth : (s.setFm x y).fmDepth = y := rfl
@[simp] theorem State.setFm_bipCount : (s.setFm x y).bipCount = s.bipCount := rfl
@[simp] theorem State.setFm_bipPhase : (s.setFm x y).bipPhase = s.bipPhase := rfl
@[simp] theorem State.setFm_out : (s.setFm x y).out = s.out := rfl
@[simp] theorem State.setFm_err : (s.setFm x y).err = s.err := rfl
@[simp] theorem State.setFm_errCode : (s.setFm x y).errCode = s.errCode := rfl
@[simp] theorem State.setFm_seqTick : (s.setFm x y).seqTick = s.seqTick := rfl
@[simp] theorem State.setFm_inputs : (s.setFm x y).inputs = s.inputs := rfl
@[simp] theorem State.setFm_freeCount : (s.setFm x y).freeCount = s.freeCount := rfl
end setFm

section setBipCount
variable (s : State) (x : BitVec 16)
@[simp] theorem State.setBipCount_cfg : (s.setBipCount x).cfg = s.cfg := rfl
@[simp] theorem State.setBipCount_voices : (s.setBipCount x).voices = s.voices := rfl
@[simp] theorem State.setBipCount_rr : (s.setBipCount x).rr = s.rr := rfl
@[simp] theorem State.setBipCount_mvol : (s.setBipCount x).mvol = s.mvol := rfl
@[simp] theorem State.setBipCount_fmHr : (s.setBipCount x).fmHr = s.fmHr := rfl
@[simp] theorem State.setBipCount_fmDepth : (s.setBipCount x).fmDepth = s.fmDepth := rfl
@[simp] theorem State.setBipCount_bipCount : (s.setBipCount x).bipCount = x := rfl
@[simp] theorem State.setBipCount_bipPhase : (s.setBipCount x).bipPhase = s.bipPhase := rfl
@[simp] theorem State.setBipCount_out : (s.setBipCount x).out = s.out := rfl
@[simp] theorem State.setBipCount_err : (s.setBipCount x).err = s.err := rfl
@[simp] theorem State.setBipCount_errCode : (s.setBipCount x).errCode = s.errCode := rfl
@[simp] theorem State.setBipCount_seqTick : (s.setBipCount x).seqTick = s.seqTick := rfl
@[simp] theorem State.setBipCount_inputs : (s.setBipCount x).inputs = s.inputs := rfl
@[simp] theorem State.setBipCount_freeCount : (s.setBipCount x).freeCount = s.freeCount := rfl
end setBipCount

section setBipPhase
variable (s : State) (x : BitVec 16)
@[simp] theorem State.setBipPhase_cfg : (s.setBipPhase x).cfg = s.cfg := rfl
@[simp] theorem State.setBipPhase_voices : (s.setBipPhase x).voices = s.voices := rfl
@[simp] theorem State.setBipPhase_rr : (s.setBipPhase x).rr = s.rr := rfl
@[simp] theorem State.setBipPhase_mvol : (s.setBipPhase x).mvol = s.mvol := rfl
@[simp] theorem State.setBipPhase_fmHr : (s.setBipPhase x).fmHr = s.fmHr := rfl
@[simp] theorem State.setBipPhase_fmDepth : (s.setBipPhase x).fmDepth = s.fmDepth := rfl
@[simp] theorem State.setBipPhase_bipCount : (s.setBipPhase x).bipCount = s.bipCount := rfl
@[simp] theorem State.setBipPhase_bipPhase : (s.setBipPhase x).bipPhase = x := rfl
@[simp] theorem State.setBipPhase_out : (s.setBipPhase x).out = s.out := rfl
@[simp] theorem State.setBipPhase_err : (s.setBipPhase x).err = s.err := rfl
@[simp] theorem State.setBipPhase_errCode : (s.setBipPhase x).errCode = s.errCode := rfl
@[simp] theorem State.setBipPhase_seqTick : (s.setBipPhase x).seqTick = s.seqTick := rfl
@[simp] theorem State.setBipPhase_inputs : (s.setBipPhase x).inputs = s.inputs := rfl
@[simp] theorem State.setBipPhase_freeCount : (s.setBipPhase x).freeCount = s.freeCount := rfl
end setBipPhase

section setOut
variable (s : State) (x : BitVec 10)
@[simp] theorem State.setOut_cfg : (s.setOut x).cfg = s.cfg := rfl
@[simp] theorem State.setOut_voices : (s.setOut x).voices = s.voices := rfl
@[simp] theorem State.setOut_rr : (s.setOut x).rr = s.rr := rfl
@[simp] theorem State.setOut_mvol : (s.setOut x).mvol = s.mvol := rfl
@[simp] theorem State.setOut_fmHr : (s.setOut x).fmHr = s.fmHr := rfl
@[simp] theorem State.setOut_fmDepth : (s.setOut x).fmDepth = s.fmDepth := rfl
@[simp] theorem State.setOut_bipCount : (s.setOut x).bipCount = s.bipCount := rfl
@[simp] theorem State.setOut_bipPhase : (s.setOut x).bipPhase = s.bipPhase := rfl
@[simp] theorem State.setOut_out : (s.setOut x).out = x := rfl
@[simp] theorem State.setOut_err : (s.setOut x).err = s.err := rfl
@[simp] theorem State.setOut_errCode : (s.setOut x).errCode = s.errCode := rfl
@[simp] theorem State.setOut_seqTick : (s.setOut x).seqTick = s.seqTick := rfl
@[simp] theorem State.setOut_inputs : (s.setOut x).inputs = s.inputs := rfl
@[simp] theorem State.setOut_freeCount : (s.setOut x).freeCount = s.freeCount := rfl
end setOut

section setErr
variable (s : State) (x : Bool) (y : BitVec 4)
@[simp] theorem State.setErr_cfg : (s.setErr x y).cfg = s.cfg := rfl
@[simp] theorem State.setErr_voices : (s.setErr x y).voices = s.voices := rfl
@[simp] theorem State.setErr_rr : (s.setErr x y).rr = s.rr := rfl
@[simp] theorem State.setErr_mvol : (s.setErr x y).mvol = s.mvol := rfl
@[simp] theorem State.setErr_fmHr : (s.setErr x y).fmHr = s.fmHr := rfl
@[simp] theorem State.setErr_fmDepth : (s.setErr x y).fmDepth = s.fmDepth := rfl
@[simp] theorem State.setErr_bipCount : (s.setErr x y).bipCount = s.bipCount := rfl
@[simp] theorem State.setErr_bipPhase : (s.setErr x y).bipPhase = s.bipPhase := rfl
@[simp] theorem State.setErr_out : (s.setErr x y).out = s.out := rfl
@[simp] theorem State.setErr_err : (s.setErr x y).err = x := rfl
@[simp] theorem State.setErr_errCode : (s.setErr x y).errCode = y := rfl
@[simp] theorem State.setErr_seqTick : (s.setErr x y).seqTick = s.seqTick := rfl
@[simp] theorem State.setErr_inputs : (s.setErr x y).inputs = s.inputs := rfl
@[simp] theorem State.setErr_freeCount : (s.setErr x y).freeCount = s.freeCount := rfl
end setErr

section setSeqTick
variable (s : State) (x : Bool)
@[simp] theorem State.setSeqTick_cfg : (s.setSeqTick x).cfg = s.cfg := rfl
@[simp] theorem State.setSeqTick_voices : (s.setSeqTick x).voices = s.voices := rfl
@[simp] theorem State.setSeqTick_rr : (s.setSeqTick x).rr = s.rr := rfl
@[simp] theorem State.setSeqTick_mvol : (s.setSeqTick x).mvol = s.mvol := rfl
@[simp] theorem State.setSeqTick_fmHr : (s.setSeqTick x).fmHr = s.fmHr := rfl
@[simp] theorem State.setSeqTick_fmDepth : (s.setSeqTick x).fmDepth = s.fmDepth := rfl
@[simp] theorem State.setSeqTick_bipCount : (s.setSeqTick x).bipCount = s.bipCount := rfl
@[simp] theorem State.setSeqTick_bipPhase : (s.setSeqTick x).bipPhase = s.bipPhase := rfl
@[simp] theorem State.setSeqTick_out : (s.setSeqTick x).out = s.out := rfl
@[simp] theorem State.setSeqTick_err : (s.setSeqTick x).err = s.err := rfl
@[simp] theorem State.setSeqTick_errCode : (s.setSeqTick x).errCode = s.errCode := rfl
@[simp] theorem State.setSeqTick_seqTick : (s.setSeqTick x).seqTick = x := rfl
@[simp] theorem State.setSeqTick_inputs : (s.setSeqTick x).inputs = s.inputs := rfl
@[simp] theorem State.setSeqTick_freeCount : (s.setSeqTick x).freeCount = s.freeCount := rfl
end setSeqTick

section setInputs
variable (s : State) (x : List PortCycle)
@[simp] theorem State.setInputs_cfg : (s.setInputs x).cfg = s.cfg := rfl
@[simp] theorem State.setInputs_voices : (s.setInputs x).voices = s.voices := rfl
@[simp] theorem State.setInputs_rr : (s.setInputs x).rr = s.rr := rfl
@[simp] theorem State.setInputs_mvol : (s.setInputs x).mvol = s.mvol := rfl
@[simp] theorem State.setInputs_fmHr : (s.setInputs x).fmHr = s.fmHr := rfl
@[simp] theorem State.setInputs_fmDepth : (s.setInputs x).fmDepth = s.fmDepth := rfl
@[simp] theorem State.setInputs_bipCount : (s.setInputs x).bipCount = s.bipCount := rfl
@[simp] theorem State.setInputs_bipPhase : (s.setInputs x).bipPhase = s.bipPhase := rfl
@[simp] theorem State.setInputs_out : (s.setInputs x).out = s.out := rfl
@[simp] theorem State.setInputs_err : (s.setInputs x).err = s.err := rfl
@[simp] theorem State.setInputs_errCode : (s.setInputs x).errCode = s.errCode := rfl
@[simp] theorem State.setInputs_seqTick : (s.setInputs x).seqTick = s.seqTick := rfl
@[simp] theorem State.setInputs_inputs : (s.setInputs x).inputs = x := rfl
@[simp] theorem State.setInputs_freeCount : (s.setInputs x).freeCount = s.freeCount := rfl
end setInputs

section setFreeCount
variable (s : State) (x : Nat)
@[simp] theorem State.setFreeCount_cfg : (s.setFreeCount x).cfg = s.cfg := rfl
@[simp] theorem State.setFreeCount_voices : (s.setFreeCount x).voices = s.voices := rfl
@[simp] theorem State.setFreeCount_rr : (s.setFreeCount x).rr = s.rr := rfl
@[simp] theorem State.setFreeCount_mvol : (s.setFreeCount x).mvol = s.mvol := rfl
@[simp] theorem State.setFreeCount_fmHr : (s.setFreeCount x).fmHr = s.fmHr := rfl
@[simp] theorem State.setFreeCount_fmDepth : (s.setFreeCount x).fmDepth = s.fmDepth := rfl
@[simp] theorem State.setFreeCount_bipCount : (s.setFreeCount x).bipCount = s.bipCount := rfl
@[simp] theorem State.setFreeCount_bipPhase : (s.setFreeCount x).bipPhase = s.bipPhase := rfl
@[simp] theorem State.setFreeCount_out : (s.setFreeCount x).out = s.out := rfl
@[simp] theorem State.setFreeCount_err : (s.setFreeCount x).err = s.err := rfl
@[simp] theorem State.setFreeCount_errCode : (s.setFreeCount x).errCode = s.errCode := rfl
@[simp] theorem State.setFreeCount_seqTick : (s.setFreeCount x).seqTick = s.seqTick := rfl
@[simp] theorem State.setFreeCount_inputs : (s.setFreeCount x).inputs = s.inputs := rfl
@[simp] theorem State.setFreeCount_freeCount : (s.setFreeCount x).freeCount = x := rfl
end setFreeCount

section reinit
variable (s : State)
@[simp] theorem State.reinit_cfg : s.reinit.cfg = s.cfg := rfl
@[simp] theorem State.reinit_voices : s.reinit.voices = List.replicate s.cfg.nVoices Voice.reset := rfl
@[simp] theorem State.reinit_rr : s.reinit.rr = 0#4 := rfl
@[simp] theorem State.reinit_mvol : s.reinit.mvol = 0#4 := rfl
@[simp] theorem State.reinit_fmHr : s.reinit.fmHr = BitVec.ofNat 8 s.cfg.fmHrReset := rfl
@[simp] theorem State.reinit_fmDepth : s.reinit.fmDepth = BitVec.ofNat 4 s.cfg.fmDepthReset := rfl
@[simp] theorem State.reinit_bipCount : s.reinit.bipCount = 0#16 := rfl
@[simp] theorem State.reinit_bipPhase : s.reinit.bipPhase = 0#16 := rfl
@[simp] theorem State.reinit_out : s.reinit.out = BitVec.ofNat 10 (min s.cfg.outOffset (2 ^ s.cfg.outW - 1)) := rfl
@[simp] theorem State.reinit_err : s.reinit.err = false := rfl
@[simp] theorem State.reinit_errCode : s.reinit.errCode = 0#4 := rfl
@[simp] theorem State.reinit_seqTick : s.reinit.seqTick = false := rfl
@[simp] theorem State.reinit_inputs : s.reinit.inputs = s.inputs := rfl
@[simp] theorem State.reinit_freeCount : s.reinit.freeCount = s.freeCount := rfl
end reinit

section beginCycle
variable (s : State)
@[simp] theorem State.beginCycle_cfg : s.beginCycle.cfg = s.cfg := rfl
@[simp] theorem State.beginCycle_voices : s.beginCycle.voices = s.voices := rfl
@[simp] theorem State.beginCycle_rr : s.beginCycle.rr = s.rr := rfl
@[simp] theorem State.beginCycle_mvol : s.beginCycle.mvol = s.mvol := rfl
@[simp] theorem State.beginCycle_fmHr : s.beginCycle.fmHr = s.fmHr := rfl
@[simp] theorem State.beginCycle_fmDepth : s.beginCycle.fmDepth = s.fmDepth := rfl
@[simp] theorem State.beginCycle_bipCount : s.beginCycle.bipCount = s.bipCount := rfl
@[simp] theorem State.beginCycle_bipPhase : s.beginCycle.bipPhase = s.bipPhase := rfl
@[simp] theorem State.beginCycle_out : s.beginCycle.out = s.out := rfl
@[simp] theorem State.beginCycle_err : s.beginCycle.err = s.err := rfl
@[simp] theorem State.beginCycle_errCode : s.beginCycle.errCode = s.errCode := rfl
@[simp] theorem State.beginCycle_seqTick : s.beginCycle.seqTick = false := rfl
@[simp] theorem State.beginCycle_inputs : s.beginCycle.inputs = s.inputs.tail := rfl
@[simp] theorem State.beginCycle_freeCount : s.beginCycle.freeCount = s.freeCount := rfl
end beginCycle

section clearErr
variable (s : State)
@[simp] theorem State.clearErr_cfg : s.clearErr.cfg = s.cfg := rfl
@[simp] theorem State.clearErr_voices : s.clearErr.voices = s.voices := rfl
@[simp] theorem State.clearErr_rr : s.clearErr.rr = s.rr := rfl
@[simp] theorem State.clearErr_mvol : s.clearErr.mvol = s.mvol := rfl
@[simp] theorem State.clearErr_fmHr : s.clearErr.fmHr = s.fmHr := rfl
@[simp] theorem State.clearErr_fmDepth : s.clearErr.fmDepth = s.fmDepth := rfl
@[simp] theorem State.clearErr_bipCount : s.clearErr.bipCount = s.bipCount := rfl
@[simp] theorem State.clearErr_bipPhase : s.clearErr.bipPhase = s.bipPhase := rfl
@[simp] theorem State.clearErr_out : s.clearErr.out = s.out := rfl
@[simp] theorem State.clearErr_err : s.clearErr.err = false := rfl
@[simp] theorem State.clearErr_errCode : s.clearErr.errCode = 0#4 := rfl
@[simp] theorem State.clearErr_seqTick : s.clearErr.seqTick = s.seqTick := rfl
@[simp] theorem State.clearErr_inputs : s.clearErr.inputs = s.inputs := rfl
@[simp] theorem State.clearErr_freeCount : s.clearErr.freeCount = s.freeCount := rfl
end clearErr

section raiseCmdError
variable (s : State) (e : CmdErr)
@[simp] theorem State.raiseCmdError_cfg : (s.raiseCmdError e).cfg = s.cfg := by
  unfold State.raiseCmdError; split <;> rfl
@[simp] theorem State.raiseCmdError_voices : (s.raiseCmdError e).voices = s.voices := by
  unfold State.raiseCmdError; split <;> rfl
@[simp] theorem State.raiseCmdError_rr : (s.raiseCmdError e).rr = s.rr := by
  unfold State.raiseCmdError; split <;> rfl
@[simp] theorem State.raiseCmdError_mvol : (s.raiseCmdError e).mvol = s.mvol := by
  unfold State.raiseCmdError; split <;> rfl
@[simp] theorem State.raiseCmdError_fmHr : (s.raiseCmdError e).fmHr = s.fmHr := by
  unfold State.raiseCmdError; split <;> rfl
@[simp] theorem State.raiseCmdError_fmDepth : (s.raiseCmdError e).fmDepth = s.fmDepth := by
  unfold State.raiseCmdError; split <;> rfl
@[simp] theorem State.raiseCmdError_bipCount : (s.raiseCmdError e).bipCount = s.bipCount := by
  unfold State.raiseCmdError; split <;> rfl
@[simp] theorem State.raiseCmdError_bipPhase : (s.raiseCmdError e).bipPhase = s.bipPhase := by
  unfold State.raiseCmdError; split <;> rfl
@[simp] theorem State.raiseCmdError_out : (s.raiseCmdError e).out = s.out := by
  unfold State.raiseCmdError; split <;> rfl
@[simp] theorem State.raiseCmdError_err : (s.raiseCmdError e).err = true := by
  unfold State.raiseCmdError; split <;> simp_all
@[simp] theorem State.raiseCmdError_errCode : (s.raiseCmdError e).errCode = if s.err then s.errCode else e.code := by
  unfold State.raiseCmdError; split <;> simp_all
@[simp] theorem State.raiseCmdError_seqTick : (s.raiseCmdError e).seqTick = s.seqTick := by
  unfold State.raiseCmdError; split <;> rfl
@[simp] theorem State.raiseCmdError_inputs : (s.raiseCmdError e).inputs = s.inputs := by
  unfold State.raiseCmdError; split <;> rfl
@[simp] theorem State.raiseCmdError_freeCount : (s.raiseCmdError e).freeCount = s.freeCount := by
  unfold State.raiseCmdError; split <;> rfl
end raiseCmdError

end Sys2Proof.Machine
end

