-- ==== Sys2Proof/Laws/Exec.lean ====
section
/-!
SUPPORT. What each operation answers, said once: the slot choice of NOTE_ON, one equation per instruction, the cases of a
SAMPLE, and what the shared slot operations do to each field.
-/

namespace Sys2Proof.Machine

theorem Voice.active_eq_false (v : Voice) : v.active = false ↔ v.note = 0#8 := by simp [Voice.active]

/-! ### The slot choice -/

/-- The slot found is free and every slot before it is active. -/
theorem firstFree_some {vs : List Voice} {i : Nat} (h : firstFree vs = some i) :
    (∃ v, vs[i]? = some v ∧ v.note = 0#8) ∧ ∀ j < i, ∀ u, vs[j]? = some u → u.note ≠ 0#8 := by
  induction vs generalizing i with
  | nil => simp [firstFree] at h
  | cons v vs ih =>
    rw [firstFree] at h
    split at h
    · rename_i ha
      obtain ⟨j, hj, rfl⟩ := Option.map_eq_some_iff.1 h
      obtain ⟨h1, h2⟩ := ih hj
      refine ⟨by simpa using h1, ?_⟩
      intro k hk u hu
      cases k with
      | zero => simp at hu; subst hu; simpa using ha
      | succ k => exact h2 k (by omega) u (by simpa using hu)
    · rename_i ha
      cases h
      exact ⟨⟨v, by simp, by simpa using ha⟩, by intro j hj; omega⟩

/-- No slot is found exactly when every slot is active. -/
theorem firstFree_none {vs : List Voice} : firstFree vs = none ↔ ∀ u ∈ vs, u.note ≠ 0#8 := by
  induction vs with
  | nil => simp [firstFree]
  | cons v vs ih => rw [firstFree]; split <;> simp_all

/-! ### One equation per instruction -/

@[simp] theorem exec_nop (s : State) : exec .nop s = .next s := rfl
@[simp] theorem exec_init (s : State) : exec .init s = .next s.reinit := rfl
@[simp] theorem exec_noteOn_zero (s : State) : exec (.noteOn 0#7) s = .next s := rfl
@[simp] theorem exec_noteOff_zero (s : State) : exec (.noteOff 0#7) s = .next s := rfl

theorem exec_noteOn {s : State} {n : BitVec 7} {v : Voice} (hn : n ≠ 0#7) (hv : s.voices[slotFor s]? = some v) :
    exec (.noteOn n) s =
      .next (((s.setVoices (s.voices.set (slotFor s) (startNote s n v))).setRr (rrAfter s)).setFreeCount
        (s.freeCount + loopEndDraws s.cfg)) := by
  simp only [exec, execNoteOn]; rw [if_neg hn, hv]

theorem exec_noteOn_no_slot {s : State} {n : BitVec 7} (hn : n ≠ 0#7) (hv : s.voices[slotFor s]? = none) :
    exec (.noteOn n) s = .fault .noSuchSlot := by
  simp only [exec, execNoteOn]; rw [if_neg hn, hv]

theorem exec_noteOff {s : State} {n : BitVec 7} (hn : n ≠ 0#7) :
    exec (.noteOff n) s = .next (s.setVoices (s.voices.map (releaseNote n))) := by
  simp only [exec, execNoteOff]; rw [if_neg hn]

@[simp] theorem exec_allOff (s : State) : exec .allOff s = .next (s.setVoices (s.voices.map Voice.free)) := rfl
@[simp] theorem exec_setFm (hr : BitVec 8) (depth : BitVec 4) (s : State) :
    exec (.setFm hr depth) s = .next (s.setFm hr depth) := rfl
@[simp] theorem exec_setMvol (l : BitVec 4) (s : State) : exec (.setMvol l) s = .next (s.setMvol l) := rfl
@[simp] theorem exec_bip (d : BitVec 16) (s : State) : exec (.bip d) s = .next (s.setBipCount d) := rfl
@[simp] theorem exec_clrErr (s : State) : exec .clrErr s = .next s.clearErr := rfl
@[simp] theorem exec_tick (s : State) : exec .tick s = .next (s.setVoices (s.voices.map (tickVoice s.cfg))) := rfl

theorem exec_sample {s : State} {S : Int} (h : voiceSum s.cfg s.voices = some S) :
    exec .sample s =
      .next (((s.stepBip.setVoices (s.voices.map (sampleVoice s.cfg))).setOut (outputLevel s.cfg (attenuated s S))).setSeqTick
        true) := by
  simp only [exec, execSample, h]

/-- Every way an operation answers a next state. -/
theorem exec_eq_next {i : Instr} {s t : State} (h : exec i s = .next t) :
    (i = .nop ∧ t = s) ∨ (i = .init ∧ t = s.reinit) ∨ ((i = .noteOn 0#7 ∨ i = .noteOff 0#7) ∧ t = s) ∨
    (∃ n v, i = .noteOn n ∧ n ≠ 0#7 ∧ s.voices[slotFor s]? = some v ∧
      t = ((s.setVoices (s.voices.set (slotFor s) (startNote s n v))).setRr (rrAfter s)).setFreeCount
        (s.freeCount + loopEndDraws s.cfg)) ∨
    (∃ n, i = .noteOff n ∧ n ≠ 0#7 ∧ t = s.setVoices (s.voices.map (releaseNote n))) ∨
    (i = .allOff ∧ t = s.setVoices (s.voices.map Voice.free)) ∨
    (∃ hr depth, i = .setFm hr depth ∧ t = s.setFm hr depth) ∨ (∃ l, i = .setMvol l ∧ t = s.setMvol l) ∨
    (∃ d, i = .bip d ∧ t = s.setBipCount d) ∨ (i = .clrErr ∧ t = s.clearErr) ∨
    (i = .tick ∧ t = s.setVoices (s.voices.map (tickVoice s.cfg))) ∨
    (∃ S, i = .sample ∧ voiceSum s.cfg s.voices = some S ∧
      t = ((s.stepBip.setVoices (s.voices.map (sampleVoice s.cfg))).setOut
        (outputLevel s.cfg (attenuated s S))).setSeqTick true) := by
  cases i with
  | noteOn n =>
    by_cases hn : n = 0#7
    · subst hn; simp at h; simp [h]
    · cases hv : s.voices[slotFor s]? with
      | none => rw [exec_noteOn_no_slot hn hv] at h; cases h
      | some v => rw [exec_noteOn hn hv] at h; simp at h; simp [hn, h]
  | noteOff n =>
    by_cases hn : n = 0#7
    · subst hn; simp at h; simp [h]
    · rw [exec_noteOff hn] at h; simp at h; simp [hn, h]
  | sample =>
    cases hS : voiceSum s.cfg s.voices with
    | none => simp only [exec, execSample, hS] at h; cases h
    | some S => rw [exec_sample hS] at h; simp at h; simp [h]
  | _ => simp at h; simp [h]

/-! ### SAMPLE -/

section stepBip
variable (s : State)
theorem stepBip_eq : s.stepBip = if s.bipCount = 0#16 then s
    else (s.setBipPhase (s.bipPhase + BitVec.ofNat 16 s.cfg.bipStep)).setBipCount (s.bipCount - 1#16) := by
  unfold State.stepBip; by_cases h : s.bipCount = 0#16 <;> simp [State.bipActive, h]
@[simp] theorem stepBip_cfg : s.stepBip.cfg = s.cfg := by rw [stepBip_eq]; split <;> rfl
@[simp] theorem stepBip_voices : s.stepBip.voices = s.voices := by rw [stepBip_eq]; split <;> rfl
@[simp] theorem stepBip_rr : s.stepBip.rr = s.rr := by rw [stepBip_eq]; split <;> rfl
@[simp] theorem stepBip_mvol : s.stepBip.mvol = s.mvol := by rw [stepBip_eq]; split <;> rfl
@[simp] theorem stepBip_fmHr : s.stepBip.fmHr = s.fmHr := by rw [stepBip_eq]; split <;> rfl
@[simp] theorem stepBip_fmDepth : s.stepBip.fmDepth = s.fmDepth := by rw [stepBip_eq]; split <;> rfl
@[simp] theorem stepBip_out : s.stepBip.out = s.out := by rw [stepBip_eq]; split <;> rfl
@[simp] theorem stepBip_err : s.stepBip.err = s.err := by rw [stepBip_eq]; split <;> rfl
@[simp] theorem stepBip_errCode : s.stepBip.errCode = s.errCode := by rw [stepBip_eq]; split <;> rfl
@[simp] theorem stepBip_seqTick : s.stepBip.seqTick = s.seqTick := by rw [stepBip_eq]; split <;> rfl
@[simp] theorem stepBip_inputs : s.stepBip.inputs = s.inputs := by rw [stepBip_eq]; split <;> rfl
@[simp] theorem stepBip_freeCount : s.stepBip.freeCount = s.freeCount := by rw [stepBip_eq]; split <;> rfl
theorem stepBip_bipCount : s.stepBip.bipCount = if s.bipCount = 0#16 then s.bipCount else s.bipCount - 1#16 := by
  rw [stepBip_eq]; split <;> rfl
theorem stepBip_bipPhase : s.stepBip.bipPhase =
    if s.bipCount = 0#16 then s.bipPhase else s.bipPhase + BitVec.ofNat 16 s.cfg.bipStep := by
  rw [stepBip_eq]; split <;> rfl
end stepBip

theorem voiceSum_cons (c : Config) (v : Voice) (vs : List Voice) :
    voiceSum c (v :: vs) = (contribution c v).bind fun x => (voiceSum c vs).map (x + ·) := by
  rw [voiceSum]; cases contribution c v <;> cases voiceSum c vs <;> rfl

/-- The voice sum is defined exactly when every contribution is. -/
theorem voiceSum_isSome (c : Config) (vs : List Voice) :
    (voiceSum c vs).isSome = true ↔ ∀ v ∈ vs, (contribution c v).isSome = true := by
  induction vs with
  | nil => simp [voiceSum]
  | cons v vs ih =>
    rw [voiceSum_cons]
    cases h1 : contribution c v <;> cases h2 : voiceSum c vs <;> simp_all

/-- The voice sum is the sum of the contributions. -/
theorem voiceSum_eq_sum {c : Config} {vs : List Voice} {f : Voice → Int} (h : ∀ v ∈ vs, contribution c v = some (f v)) :
    voiceSum c vs = some (vs.map f).sum := by
  induction vs with
  | nil => rfl
  | cons v vs ih =>
    rw [voiceSum_cons, h v (by simp), ih fun u hu => h u (by simp [hu])]
    simp

/-- A contribution is missing only for an active wavetable voice whose cursor is outside the ROM. -/
theorem contribution_isSome (c : Config) (v : Voice) :
    (contribution c v).isSome = true ↔
      (c.voiceKind = .wavetable → v.note ≠ 0#8 → (posByte v.samplePos).toNat < c.wtLen) := by
  unfold contribution
  by_cases hv : v.note = 0#8
  · simp [Voice.active, hv]
  · rw [if_pos ((Voice.active_iff v).2 hv)]
    cases c.voiceKind <;> simp [hv, wtRead_isSome]

/-! ### What the slot operations keep -/

section slots
variable (c : Config) (v : Voice)

theorem sampleVoice_of_free (h : v.note = 0#8) : sampleVoice c v = v := by simp [sampleVoice, Voice.active, h]
theorem tickVoice_of_free (h : v.note = 0#8) : tickVoice c v = v := by simp [tickVoice, Voice.active, h]

@[simp] theorem sampleVoice_note : (sampleVoice c v).note = v.note := by
  unfold sampleVoice; split; · cases c.voiceKind <;> rfl
  · rfl
@[simp] theorem sampleVoice_env : (sampleVoice c v).env = v.env := by
  unfold sampleVoice; split; · cases c.voiceKind <;> rfl
  · rfl
@[simp] theorem sampleVoice_modEnv : (sampleVoice c v).modEnv = v.modEnv := by
  unfold sampleVoice; split; · cases c.voiceKind <;> rfl
  · rfl
@[simp] theorem sampleVoice_level : (sampleVoice c v).level = v.level := by
  unfold sampleVoice; split; · cases c.voiceKind <;> rfl
  · rfl
@[simp] theorem sampleVoice_rel : (sampleVoice c v).rel = v.rel := by
  unfold sampleVoice; split; · cases c.voiceKind <;> rfl
  · rfl
@[simp] theorem sampleVoice_loopStart : (sampleVoice c v).loopStart = v.loopStart := by
  unfold sampleVoice; split; · cases c.voiceKind <;> rfl
  · rfl
@[simp] theorem sampleVoice_loopEnd : (sampleVoice c v).loopEnd = v.loopEnd := by
  unfold sampleVoice; split; · cases c.voiceKind <;> rfl
  · rfl
@[simp] theorem sampleVoice_step : (sampleVoice c v).step = v.step := by
  unfold sampleVoice; split; · cases c.voiceKind <;> rfl
  · rfl
@[simp] theorem sampleVoice_modStep : (sampleVoice c v).modStep = v.modStep := by
  unfold sampleVoice; split; · cases c.voiceKind <;> rfl
  · rfl
@[simp] theorem sampleVoice_modDepth : (sampleVoice c v).modDepth = v.modDepth := by
  unfold sampleVoice; split; · cases c.voiceKind <;> rfl
  · rfl
@[simp] theorem sampleVoice_sampleStep : (sampleVoice c v).sampleStep = v.sampleStep := by
  unfold sampleVoice; split; · cases c.voiceKind <;> rfl
  · rfl

/-- What TICK can do to a slot. -/
theorem tickVoice_cases : tickVoice c v = v ∨
    (c.voiceKind = .sine ∧ tickVoice c v = ({ v with env := advance c.maxv c.envCarrier v.env } : Voice).retireIdle) ∨
    (c.voiceKind = .fm ∧ tickVoice c v =
      ({ v with env := advance c.maxv c.envCarrier v.env, modEnv := advance c.maxv c.envMod v.modEnv } : Voice).retireIdle) ∨
    (c.voiceKind = .wavetable ∧ v.rel = true ∧ tickVoice c v =
      if levelAfter c v.level = 0#8 then ({ v with level := levelAfter c v.level } : Voice).free
      else { v with level := levelAfter c v.level }) := by
  unfold tickVoice tickLevel
  split
  · cases hk : c.voiceKind
    · exact .inr (.inl ⟨rfl, rfl⟩)
    · exact .inr (.inr (.inl ⟨rfl, rfl⟩))
    · cases hr : v.rel
      · exact .inl rfl
      · exact .inr (.inr (.inr ⟨rfl, rfl, rfl⟩))
  · exact .inl rfl

/-- Retiring a voice can only clear its `note`. -/
theorem retireIdle_cases : (v.env.state = .idle ∧ v.retireIdle = v.free) ∨ (v.env.state ≠ .idle ∧ v.retireIdle = v) := by
  unfold Voice.retireIdle; by_cases h : v.env.state = .idle <;> simp [h]

theorem toNat_levelAfter (l : BitVec 8) : (levelAfter c l).toNat = l.toNat - c.wtDecay := by
  unfold levelAfter
  rw [BitVec.toNat_ofInt]
  have := l.isLt
  omega

/-- What NOTE_OFF can do to a slot. -/
theorem releaseNote_cases (n : BitVec 7) : (v.note ≠ n.setWidth 8 ∧ releaseNote n v = v) ∨ (v.note = n.setWidth 8 ∧
    releaseNote n v =
      { v with env := ⟨.release, v.env.vel⟩, modEnv := ⟨.release, v.modEnv.vel⟩, rel := true }) := by
  unfold releaseNote; by_cases h : v.note = n.setWidth 8 <;> simp [h]

end slots

/-- A nonzero 7-bit note is a nonzero 8-bit one. -/
theorem setWidth_note_ne_zero {n : BitVec 7} (hn : n ≠ 0#7) : n.setWidth 8 ≠ 0#8 := by
  revert n; decide

/-! ### The envelope -/

/-- The whole of `advance`, arm by arm, in a register that holds MAXV and the sustain level. -/
theorem advance_spec {maxv : Nat} {r : EnvRates} (hm : maxv ≤ 255) (hs : r.s ≤ maxv) (e : Env) :
    (e.state = .attack ∧ maxv ≤ e.vel.toNat + r.a ∧ (advance maxv r e).state = .decay ∧
      (advance maxv r e).vel.toNat = maxv) ∨
    (e.state = .attack ∧ e.vel.toNat + r.a < maxv ∧ (advance maxv r e).state = .attack ∧
      (advance maxv r e).vel.toNat = e.vel.toNat + r.a) ∨
    (e.state = .decay ∧ e.vel.toNat ≤ r.s + r.d ∧ (advance maxv r e).state = .sustain ∧
      (advance maxv r e).vel.toNat = r.s) ∨
    (e.state = .decay ∧ r.s + r.d < e.vel.toNat ∧ (advance maxv r e).state = .decay ∧
      (advance maxv r e).vel.toNat = e.vel.toNat - r.d) ∨
    (e.state = .sustain ∧ advance maxv r e = e) ∨
    (e.state = .release ∧ e.vel.toNat ≤ r.r ∧ advance maxv r e = ⟨.idle, 0#8⟩) ∨
    (e.state = .release ∧ r.r < e.vel.toNat ∧ (advance maxv r e).state = .release ∧
      (advance maxv r e).vel.toNat = e.vel.toNat - r.r) ∨
    (e.state = .idle ∧ advance maxv r e = e) := by
  obtain ⟨st, vel⟩ := e
  have hv := vel.isLt
  cases st <;> simp only [advance]
  · split
    · exact .inl ⟨trivial, by omega, rfl, by simp; omega⟩
    · exact .inr (.inl ⟨trivial, by omega, rfl, by rw [BitVec.toNat_ofInt]; omega⟩)
  · split
    · exact .inr (.inr (.inl ⟨trivial, by omega, rfl, by simp; omega⟩))
    · exact .inr (.inr (.inr (.inl ⟨trivial, by omega, rfl, by rw [BitVec.toNat_ofInt]; omega⟩)))
  · simp
  · split
    · exact .inr (.inr (.inr (.inr (.inr (.inl ⟨trivial, by omega, rfl⟩)))))
    · exact .inr (.inr (.inr (.inr (.inr (.inr (.inl ⟨trivial, by omega, rfl, by rw [BitVec.toNat_ofInt]; omega⟩))))))
  · simp

end Sys2Proof.Machine
end

