-- ==== Sys2Proof/Laws/PerInstr.lean ====
section
/-!
SUPPORT. The family of statements per instruction that LAWS.json names: a command's word lies in the row that
spec/opcode_table.json gives its mnemonic (30_encoding.md R84), and a strobe has no word (R87).
-/

namespace Sys2Proof.Laws.EncodingRow

/-- The opcode whose row an instruction belongs to; a strobe belongs to none. -/
def rowOf : Instr → Option Opcode
  | .nop => some .nop
  | .init => some .init
  | .noteOn _ => some .noteOn
  | .noteOff _ => some .noteOff
  | .allOff => some .allOff
  | .setFm _ _ => some .setFm
  | .setMvol _ => some .setMvol
  | .bip _ => some .bip
  | .clrErr => some .clrErr
  | .tick => none
  | .sample => none

/-- The word of the instruction matches its row; a strobe has no word. -/
def Statement (i : Instr) : Prop :=
  match rowOf i with
  | some o => ∃ w, encodeWord i = some w ∧ w &&& o.rowMask = o.rowMatch
  | none => encodeWord i = none

/-- An operand below the row's fixed bits leaves them as the row has them. -/
theorem or_and_mask {k : Nat} (m f : Word) (x : BitVec k) (hf : f &&& m = f) (hx : ∀ i, i < k → m.getLsbD i = false) :
    (f ||| x.setWidth 32) &&& m = f := by
  apply BitVec.eq_of_getLsbD_eq
  intro i hi
  have hfi : (f &&& m).getLsbD i = f.getLsbD i := by rw [hf]
  simp only [BitVec.getLsbD_and, BitVec.getLsbD_or, BitVec.getLsbD_setWidth] at hfi ⊢
  by_cases hk : i < k
  · rw [hx i hk] at hfi ⊢; simpa using hfi
  · rw [BitVec.getLsbD_of_ge x i (by omega)]; simpa using hfi

theorem nop : Statement .nop := ⟨_, rfl, by decide⟩
theorem init : Statement .init := ⟨_, rfl, by decide⟩
theorem noteOn (n : BitVec 7) : Statement (.noteOn n) := ⟨_, rfl, or_and_mask _ _ n (by decide) (by decide)⟩
theorem noteOff (n : BitVec 7) : Statement (.noteOff n) := ⟨_, rfl, or_and_mask _ _ n (by decide) (by decide)⟩
theorem allOff : Statement .allOff := ⟨_, rfl, by decide⟩
theorem setFm (hr : BitVec 8) (depth : BitVec 4) : Statement (.setFm hr depth) :=
  ⟨_, rfl, or_and_mask _ _ (depth ++ hr) (by decide) (by decide)⟩
theorem setMvol (l : BitVec 4) : Statement (.setMvol l) := ⟨_, rfl, or_and_mask _ _ l (by decide) (by decide)⟩
theorem bip (d : BitVec 16) : Statement (.bip d) := ⟨_, rfl, or_and_mask _ _ d (by decide) (by decide)⟩
theorem clrErr : Statement .clrErr := ⟨_, rfl, by decide⟩
theorem tick : Statement .tick := rfl
theorem sample : Statement .sample := rfl

end Sys2Proof.Laws.EncodingRow
end

