-- ==== Sys2Proof/Laws/Safety.lean ====
section
/-!
SUPPORT. The claims of 10_state.md R30 about one slot, kept by each operation on a slot.
-/

namespace Sys2Proof.Machine

/-- A slot with its reset values meets the claims. -/
theorem voiceInv_reset (c : Config) : VoiceInv c Voice.reset := by
  constructor <;> simp [Voice.reset]

/-- An envelope never leaves 0 to MAXV. -/
theorem advance_vel_le {maxv : Nat} {r : EnvRates} (hm : maxv ≤ 255) (hr : r.s ≤ maxv) (e : Env) (h : e.vel.toNat ≤ maxv) :
    (advance maxv r e).vel.toNat ≤ maxv := by
  rcases advance_spec hm hr e with h|h|h|h|h|h|h|h
  all_goals first | omega | (rw [h.2]; assumption) | (rw [h.2.2]; simp)

/-- Freeing a slot keeps the claims. -/
theorem voiceInv_free {c : Config} {v : Voice} (h : VoiceInv c v) : VoiceInv c v.free := by
  obtain ⟨a,b,d,e,f,g,i,j⟩ := h
  constructor <;> simp [Voice.free] <;> assumption

/-- TICK keeps the claims. -/
theorem voiceInv_tick {c : Config} {v : Voice} (hl : c.Legal) (h : VoiceInv c v) : VoiceInv c (tickVoice c v) := by
  have hm := hl.maxv_le
  have hc := hl.carrier.sustain
  have hmo := hl.modulator.sustain
  rcases tickVoice_cases c v with h'|⟨hk,h'⟩|⟨hk,h'⟩|⟨hk,hr,h'⟩ <;> rw [h']
  · exact h
  · have hv := advance_vel_le hm hc v.env h.velLe.1
    rcases retireIdle_cases { v with env := advance c.maxv c.envCarrier v.env } with ⟨hi, h2⟩ | ⟨hi, h2⟩ <;> rw [h2]
    · constructor <;> simp [Voice.free]
      · exact ⟨hv, h.velLe.2⟩
      · exact h.levelLe
    · constructor <;> simp [hk]
      · exact ⟨hv, h.velLe.2⟩
      · intro _; exact hi
      · exact h.levelLe
      · exact h.loopRegs
      · exact h.noteLe
  · have hv := advance_vel_le hm hc v.env h.velLe.1
    have hv2 := advance_vel_le hm hmo v.modEnv h.velLe.2
    rcases retireIdle_cases { v with env := advance c.maxv c.envCarrier v.env, modEnv := advance c.maxv c.envMod v.modEnv } with
      ⟨hi, h2⟩ | ⟨hi, h2⟩ <;> rw [h2]
    · constructor <;> simp [Voice.free]
      · exact ⟨hv, hv2⟩
      · exact h.levelLe
    · constructor <;> simp [hk]
      · exact ⟨hv, hv2⟩
      · intro _; exact hi
      · exact h.levelLe
      · exact h.loopRegs
      · exact h.noteLe
  · have ht := toNat_levelAfter c v.level
    have hle := h.levelLe
    split
    · constructor <;> simp [Voice.free]
      · exact h.velLe
      · omega
    · rename_i hz
      have hz : (levelAfter c v.level).toNat ≠ 0 := fun h0 => hz (by apply BitVec.eq_of_toNat_eq; simpa using h0)
      constructor <;> simp [hk]
      · exact h.velLe
      · omega
      · omega
      · exact h.inRom hk
      · exact h.inLoop hk
      · exact h.loopRegs
      · exact h.noteLe

/-- The byte offset of a cursor set to an integer position. -/
theorem posByte_append_zero (x : BitVec 24) : (posByte (x ++ 0#8)).toNat = x.toNat := by
  rw [toNat_posByte, BitVec.toNat_append, ← Nat.shiftLeft_add_eq_or_of_lt (by simp), Nat.shiftLeft_eq]; simp

/-- SAMPLE keeps the claims. -/
theorem voiceInv_sample {c : Config} {v : Voice} (hl : c.Legal) (h : VoiceInv c v) : VoiceInv c (sampleVoice c v) := by
  by_cases hz : v.note = 0#8
  · rw [sampleVoice_of_free _ _ hz]; exact h
  constructor <;> simp
  · exact h.velLe
  · exact h.notIdle
  · exact h.levelPos
  · exact h.levelLe
  · intro hk _
    obtain ⟨hls, hle, _⟩ := h.loopRegs hz
    have h1 := hl.loop; have h2 := hl.wtLen
    simp only [sampleVoice, (Voice.active_iff v).2 hz, hk, if_true]
    unfold loopAdvance; dsimp only
    split
    · rw [posByte_append_zero]; omega
    · have := (posByte (v.samplePos + v.sampleStep)).isLt
      by_cases hc : c.loopEnd < 2^24
      · have := hle hc; omega
      · omega
  · intro hk _ hc
    obtain ⟨hls, _, hlt⟩ := h.loopRegs hz
    have hlt := hlt hc
    refine ⟨?_, (h.inLoop hk hz hc).2⟩
    simp only [sampleVoice, (Voice.active_iff v).2 hz, hk, if_true]
    unfold loopAdvance; dsimp only
    split
    · rw [posByte_append_zero]; omega
    · omega
  · exact h.loopRegs
  · exact h.noteLe

/-- NOTE_OFF keeps the claims. -/
theorem voiceInv_release {c : Config} {v : Voice} {n : BitVec 7} (h : VoiceInv c v) : VoiceInv c (releaseNote n v) := by
  rcases releaseNote_cases v n with ⟨_, h'⟩ | ⟨_, h'⟩ <;> rw [h']
  · exact h
  · constructor <;> simp
    · exact h.velLe
    · exact h.levelPos
    · exact h.levelLe
    · exact h.inRom
    · exact h.inLoop
    · exact h.loopRegs
    · exact h.noteLe

/-- What NOTE_ON leaves in `loop_end`: LOOP_END where the register can hold it, and always a value above LOOP_START where there is
one. -/
theorem toNat_loopEndReg {c : Config} (hl : c.Legal) (k : Nat) :
    (c.loopEnd < 2 ^ 24 → (loopEndReg c k).toNat = c.loopEnd) ∧
      (c.loopStart < 2 ^ 24 - 1 → c.loopStart < (loopEndReg c k).toNat) := by
  have h1 := hl.loop
  unfold loopEndReg
  split
  · simp; omega
  · refine ⟨fun h => absurd h ‹_›, fun h => ?_⟩
    have hm := Nat.mod_lt (Config.freeLoopEnd k).toNat (show 0 < 2 ^ 24 - 1 - c.loopStart by omega)
    rw [freeLoopEndAbove, BitVec.toNat_ofNat, Nat.mod_eq_of_lt] <;> omega

/-- A slot that NOTE_ON has initialised meets the claims. -/
theorem voiceInv_start {s : State} {n : BitVec 7} {v : Voice} (hl : s.cfg.Legal) : VoiceInv s.cfg (startNote s n v) := by
  have h1 := hl.loop; have h2 := hl.wtLen; have h3 := hl.levelMax; have h4 := hl.maxv_le
  obtain ⟨h5, h6⟩ := toNat_loopEndReg hl s.freeCount
  have h7 := (loopEndReg s.cfg s.freeCount).isLt
  constructor <;> simp [startNote, slotInit]
  · intros; omega
  · omega
  · intros; rw [toNat_posByte]; simp; omega
  · intro _ _ hc; rw [toNat_posByte]; simp; omega
  · intro _; exact ⟨by omega, h5, h6⟩
  · have := n.isLt; omega

end Sys2Proof.Machine
end

