-- ==== Sys2Proof/Laws/Step.lean ====
section
/-!
SUPPORT. What a cycle can do, said once: sequencing, the cycle of a legal instance, and the cases of a step that answers a next
state.
-/

namespace Sys2Proof.Machine

@[simp] theorem andThen_next (s : State) (f : State → Host.Outcome State Fault Refusal) : andThen (.next s) f = f s := rfl
@[simp] theorem andThen_fault (r : Fault) (f : State → Host.Outcome State Fault Refusal) :
    andThen (.fault r) f = .fault r := rfl
@[simp] theorem andThen_refused (r : Refusal) (f : State → Host.Outcome State Fault Refusal) :
    andThen (.refused r) f = .refused r := rfl

/-- A sequence answers a next state exactly when both parts do. -/
theorem andThen_eq_next {o : Host.Outcome State Fault Refusal} {f : State → Host.Outcome State Fault Refusal} {t : State} :
    andThen o f = .next t ↔ ∃ s, o = .next s ∧ f s = .next t := by
  cases o <;> simp

@[simp] theorem runEvents_nil (s : State) : runEvents [] s = .next s := rfl
@[simp] theorem runEvents_cons (e : Except CmdErr Instr) (es : List (Except CmdErr Instr)) (s : State) :
    runEvents (e :: es) s = andThen (runEvent e s) (runEvents es) := rfl

theorem runEvents_append (es fs : List (Except CmdErr Instr)) (s : State) :
    runEvents (es ++ fs) s = andThen (runEvents es s) (runEvents fs) := by
  induction es generalizing s with
  | nil => rfl
  | cons e es ih =>
    simp only [List.cons_append, runEvents_cons]
    cases runEvent e s <;> simp [ih]

@[simp] theorem runEvent_ok (i : Instr) (s : State) : runEvent (.ok i) s = exec i s := rfl
@[simp] theorem runEvent_error (e : CmdErr) (s : State) : runEvent (.error e) s = .next (s.raiseCmdError e) := rfl

theorem step_of_legal {s : State} (h : s.cfg.Legal) : step s = runCycle s.nextInput s := by
  unfold step clockCycle; rw [if_pos h]

theorem step_of_inputs {s : State} {c : PortCycle} {rest : List PortCycle} (h : s.cfg.Legal) (hi : s.inputs = c :: rest) :
    step s = runCycle c s := by
  rw [step_of_legal h, State.nextInput, hi]; rfl

theorem beginCycle_of_inputs {s : State} {c : PortCycle} {rest : List PortCycle} (hi : s.inputs = c :: rest) :
    s.beginCycle = { s with inputs := rest, seqTick := false } := by
  simp [State.beginCycle, State.setInputs, State.setSeqTick, hi]

theorem runCycle_of_rst {c : PortCycle} (s : State) (h : c.rst = true) : runCycle c s = .next s.beginCycle.reinit := by
  simp [runCycle, h]

theorem runCycle_of_not_rst {c : PortCycle} (s : State) (h : c.rst = false) :
    runCycle c s = runEvents (decodeCycle c) s.beginCycle := by
  simp [runCycle, h]

/-- The operations of a cycle that is no reset. -/
theorem mem_decodeCycle {c : PortCycle} {e : Except CmdErr Instr} :
    e ∈ decodeCycle c ↔ c.rst = false ∧ ((e = .ok .sample ∧ c.sampleStrobe = true) ∨ (e = .ok .tick ∧ c.tickStrobe = true) ∨
      (e = decodeWord c.cmdData ∧ c.cmdValid = true)) := by
  unfold decodeCycle
  cases c.rst <;> cases c.sampleStrobe <;> cases c.tickStrobe <;> cases c.cmdValid <;> simp

/-- Everything a step that answers a next state can be: the instance is legal, and the cycle is a reset or runs its events. -/
theorem step_eq_next {s t : State} (h : step s = .next t) :
    s.cfg.Legal ∧ ((s.nextInput.rst = true ∧ t = s.beginCycle.reinit) ∨
      (s.nextInput.rst = false ∧ runEvents (decodeCycle s.nextInput) s.beginCycle = .next t)) := by
  by_cases hl : s.cfg.Legal
  · refine ⟨hl, ?_⟩
    rw [step_of_legal hl] at h
    cases hr : s.nextInput.rst
    · exact .inr ⟨rfl, by rwa [runCycle_of_not_rst _ hr] at h⟩
    · rw [runCycle_of_rst _ hr] at h; exact .inl ⟨rfl, by simpa using h.symm⟩
  · unfold step clockCycle at h; rw [if_neg hl] at h; cases h

/-- A property that every event of a list keeps holds after the list. -/
theorem runEvents_induction {P : State → Prop} {es : List (Except CmdErr Instr)} {s t : State}
    (hstep : ∀ e ∈ es, ∀ u v, P u → runEvent e u = .next v → P v) (h0 : P s) (h : runEvents es s = .next t) : P t := by
  induction es generalizing s with
  | nil => simp at h; subst h; exact h0
  | cons e es ih =>
    rw [runEvents_cons, andThen_eq_next] at h
    obtain ⟨u, hu, ht⟩ := h
    exact ih (fun e' he' => hstep e' (List.mem_cons_of_mem _ he')) (hstep e (by simp) s u h0 hu) ht

/-- A property under which every event of a list completes, and which each keeps, carries the list to its end. -/
theorem runEvents_completes {P : State → Prop} {es : List (Except CmdErr Instr)} {s : State}
    (hstep : ∀ e ∈ es, ∀ u, P u → ∃ v, runEvent e u = .next v ∧ P v) (h0 : P s) : ∃ t, runEvents es s = .next t ∧ P t := by
  induction es generalizing s with
  | nil => exact ⟨s, rfl, h0⟩
  | cons e es ih =>
    obtain ⟨u, hu, hp⟩ := hstep e (by simp) s h0
    obtain ⟨t, ht, hpt⟩ := ih (fun e' he' => hstep e' (List.mem_cons_of_mem _ he')) hp
    exact ⟨t, by rw [runEvents_cons, hu]; exact ht, hpt⟩

end Sys2Proof.Machine
end

