-- ==== Sys2Proof/Tests/Slice0.lean ====
section
/-!
SUPPORT. Tests: the refusals of the well-formedness checks, words written out from the spec's encodings, single steps whose
results are the spec's own vectors (95_test_vectors.md and the worked examples), and a witness for every statement with
hypotheses.
-/

namespace Sys2Proof.Tests

open Sys2Proof Sys2Proof.Machine

/-! ### Small states -/

/-- The state after RESET of RC0 with one voice kind. -/
def base (k : VoiceKind) : State := State.resetOf (Config.rc0 k)

/-- A sounding slot. -/
def tone (n : BitVec 8) (e : Env) : Voice :=
  { Voice.reset with
    note := n, step := 1856, phase := 1856, env := e, modStep := 3712, modPhase := 3712, modEnv := ⟨.attack, 128⟩
    samplePos := 0x550, sampleStep := 272, loopStart := 2, loopEnd := 6, level := 255 }

/-- One voice sounding note 69 at full amplitude. -/
def one (k : VoiceKind) : State :=
  (base k).setVoices [tone 69 ⟨.decay, 255⟩, Voice.reset, Voice.reset, Voice.reset]

/-- Every voice sounding. -/
def full (k : VoiceKind) : State :=
  (base k).setVoices [tone 60 ⟨.attack, 128⟩, tone 64 ⟨.attack, 128⟩, tone 67 ⟨.attack, 128⟩, tone 71 ⟨.sustain, 160⟩]

/-- A cycle with one strobe. -/
def tickCycle : PortCycle := { PortCycle.quiet with tickStrobe := true }
def sampleCycle : PortCycle := { PortCycle.quiet with sampleStrobe := true }
def resetCycle : PortCycle := { PortCycle.quiet with rst := true }

/-- A state whose next cycle is `c`. -/
def feed (s : State) (c : PortCycle) : State := s.setInputs [c]

/-- What a step leaves in a field. -/
def after {α : Type} (f : State → α) (s : State) : Option α := (nextState? (step s)).map f

/-- What a step leaves in slot `i`. -/
def slotAfter {α : Type} (i : Nat) (f : Voice → α) (s : State) : Option α :=
  (nextState? (step s)).bind fun t => t.voices[i]?.map f

/-! ### Well-formedness: each check refuses an ill-formed term (30_encoding.md R88, 00_scope.md R8) -/

theorem test_wf_refuses_out_of_range_operands :
    [AsmLine.noteOn 128, .noteOff 128, .setFm 256 0, .setFm 0 16, .setMvol 16, .bip 65536, .word (2 ^ 32), .read 256].all
      (fun l => !l.wf && l.assemble == none) = true := by decide +kernel

theorem test_wf_takes_the_ends_of_the_ranges :
    [AsmLine.noteOn 127, .noteOff 0, .setFm 255 15, .setMvol 15, .bip 65535, .word (2 ^ 32 - 1), .read 255].all
      AsmLine.wf = true := by decide +kernel

/-- RC0 with a change that breaks one constraint of 00_scope.md R8. -/
def broken : List Config :=
  let c := Config.rc0 .sine
  [{ c with nVoices := 0 }, { c with nVoices := 16 }, { c with maxv := 200 }, { c with envCarrier := ⟨0, 8, 160, 32⟩ },
    { c with envCarrier := ⟨256, 8, 160, 32⟩ }, { c with envMod := ⟨32, 0, 96, 16⟩ }, { c with envMod := ⟨32, 4, 256, 16⟩ },
    { c with envMod := ⟨32, 4, 96, 0⟩ }, { c with hrFrac := 8 }, { c with fmHrReset := 256 }] ++
  [{ c with fmDepthReset := 16 }, { c with wtLen := 0 }, { c with wtLen := 2 ^ 24 + 1 }, { c with loopStart := 6 },
    { c with loopEnd := 9 }, { c with wtData := [(1, 0#8)] }, { c with wtData := [(2, 1#8), (1, 1#8)] },
    { c with wtData := [(8, 1#8)] }] ++
  [{ c with levelMax := 0 }, { c with levelMax := 256 }, { c with wtDecay := 0 }, { c with wtDecay := 256 },
    { c with bipStep := 0 }, { c with bipStep := 65536 }, { c with bipShift := 8 }, { c with outW := 7 }, { c with outW := 11 }]

theorem test_broken_configurations_are_illegal : broken.all (fun c => decide ¬ c.Legal) = true := by decide +kernel

theorem test_rc0_is_legal : (Config.rc0 .sine).Legal ∧ (Config.rc0 .fm).Legal ∧ (Config.rc0 .wavetable).Legal := by
  decide +kernel

theorem test_reset_rom_is_canonical : Memory.wf State.reset.cfg.wtData = true := by decide +kernel

/-- The eight bytes of 95_test_vectors.md L2.6. -/
theorem test_reset_rom_bytes : (List.range 9).map (Memory.read State.reset.cfg.wtData) =
    [0x00#8, 0x40#8, 0x7F#8, 0x40#8, 0x00#8, 0xC0#8, 0x81#8, 0xC0#8, 0x00#8] := by decide +kernel

/-! ### Decoding: words written out from 30_encoding.md R84, opcode in [31:24] and operands in the bits of R82 -/

theorem test_decode_nop : decodeWord 0b00000000_000000000000000000000000#32 = .ok .nop := by rfl
theorem test_decode_init : decodeWord 0b00000001_000000000000000000000000#32 = .ok .init := by rfl
theorem test_decode_noteOn : decodeWord 0b00000010_0000000000000000_0_0111100#32 = .ok (.noteOn 60) := by rfl
theorem test_decode_noteOff : decodeWord 0b00000011_0000000000000000_0_1000101#32 = .ok (.noteOff 69) := by rfl
theorem test_decode_allOff : decodeWord 0b00000100_000000000000000000000000#32 = .ok .allOff := by rfl
theorem test_decode_setFm : decodeWord 0b00000101_000000000000_1000_00000010#32 = .ok (.setFm 2 8) := by rfl
theorem test_decode_setMvol : decodeWord 0b00000110_00000000000000000000_0011#32 = .ok (.setMvol 3) := by rfl
theorem test_decode_bip : decodeWord 0b00000111_00000000_0000000001100100#32 = .ok (.bip 100) := by rfl
theorem test_decode_clrErr : decodeWord 0b00001000_000000000000000000000000#32 = .ok .clrErr := by rfl
/-- TICK and SAMPLE have a strobe and no word (30_encoding.md R87). -/
theorem test_decode_strobes : decodeCycle tickCycle = [.ok .tick] ∧ decodeCycle sampleCycle = [.ok .sample] := ⟨rfl, rfl⟩
theorem test_decode_reserved_opcode : decodeWord 0x0A000000#32 = .error .reservedOpcode := by rfl
theorem test_decode_reserved_operand : decodeWord 0x08000001#32 = .error .reservedOperand := by rfl
/-- 60_exceptions.md R203. -/
theorem test_decode_first_check_wins : decodeWord 0x02000180#32 = .error .reservedOperand := by rfl
theorem test_decode_note_range : decodeWord 0x030000FF#32 = .error .noteRange := by rfl
theorem test_decodeTableWord : decodeTableWord 32 0x02000045 = some (.noteOn 69) ∧ decodeTableWord 32 0x09000000 = none := by
  decide +kernel
/-- A written line, its comment dropped (30_encoding.md R88). -/
theorem test_text_line : assembleLine ['S', 'E', 'T', '_', 'F', 'M', ' ', '0', 'x', '2', ',', ' ', '8', ' ', ';', 'x'] =
    some [PortCycle.command 0x05000802#32] := by decide +kernel

/-! ### Single steps -/

/-- 95_test_vectors.md L2.4. -/
theorem test_nop : after (fun t => (t.voices, t.out, t.err)) ((one .sine).withFetchWord 32 0) =
    some ((one .sine).voices, 128#10, false) := by decide +kernel
/-- 40_voice_commands.md R131 and 95_test_vectors.md L2.4. -/
theorem test_init : after (fun t => (t.voices, readPort t 1, readPort t 0, readPort t 2))
    ((full .sine).setMvol 5 |>.withFetchWord 32 0x01000000) =
    some (List.replicate 4 Voice.reset, 0x00000000#32, 128#32, 0x00080100#32) := by decide +kernel
/-- 40_voice_commands.md R107. -/
theorem test_noteOn : slotAfter 0 (fun v => (v.step, v.env, v.modStep, v.modDepth, v.note))
    ((base .sine).withFetchWord 32 0x02000045) = some (1856#16, ⟨.attack, 0#8⟩, 1856#16, 8#4, 69#8) := by decide +kernel
/-- 95_test_vectors.md P3, step 8: a steal at rr = 1. -/
theorem test_noteOn_steals : after (fun t => (t.rr, t.voices.map (·.note)))
    ((full .sine).setRr 1 |>.withFetchWord 32 0x0200004C) = some (2#4, [60#8, 76#8, 67#8, 71#8]) := by decide +kernel
/-- 40_voice_commands.md R111. -/
theorem test_noteOff : slotAfter 3 (fun v => (v.env, v.modEnv, v.rel, v.note)) ((full .sine).withFetchWord 32 0x03000047) =
    some (⟨.release, 160#8⟩, ⟨.release, 128#8⟩, true, 71#8) := by decide +kernel
/-- The ENV word: the five codes of 10_state.md R25 at [2:0], beside a modulator in Release, code 3 at [18:16], at amplitude 128
(R48). -/
theorem test_env_codes : [EnvState.attack, .decay, .sustain, .release, .idle].map
    (fun e => voiceWord { Voice.reset with env := ⟨e, 0⟩, modEnv := ⟨.release, 128⟩ } 3) =
    [0x80030000#32, 0x80030001#32, 0x80030002#32, 0x80030003#32, 0x80030004#32] := by
  decide +kernel
/-- 40_voice_commands.md R110 (a). -/
theorem test_noteOff_no_holder : after State.voices ((full .sine).withFetchWord 32 0x03000046) = some (full .sine).voices := by
  decide +kernel
/-- 40_voice_commands.md R112: the envelope stays. -/
theorem test_allOff : slotAfter 3 (fun v => (v.note, v.env)) ((full .sine).withFetchWord 32 0x04000000) =
    some (0#8, ⟨.sustain, 160#8⟩) := by decide +kernel
/-- 95_test_vectors.md L2.4: CFG = 0x00020300. -/
theorem test_setFm : after (readPort · 2) ((base .fm).withFetchWord 32 0x05000203) = some 0x00020300#32 := by decide +kernel
/-- 40_voice_commands.md R116: CFG[3:0] = 3. -/
theorem test_setMvol : after (readPort · 2) ((base .sine).withFetchWord 32 0x06000003) = some 0x00080103#32 := by decide +kernel
/-- 40_voice_commands.md R118: BIP = 0x00000064 and STATUS.BIP_ACTIVE = 1. -/
theorem test_bip : after (fun t => (readPort t 3, readPort t 1)) ((base .sine).withFetchWord 32 0x07000064) =
    some (0x00000064#32, 0x00000100#32) := by decide +kernel
/-- 40_voice_commands.md R133. -/
theorem test_clrErr : after (readPort · 1) ((base .sine).setErr true 1 |>.withFetchWord 32 0x08000000) = some 0x00000000#32 := by
  decide +kernel
/-- 40_voice_commands.md R133: STATUS reads 0x00000011. -/
theorem test_illegal_word : after (readPort · 1) ((base .sine).withFetchWord 32 0x09000000) = some 0x00000011#32 := by
  decide +kernel
/-- 95_test_vectors.md P3, step 10: (Attack, 128) gives (Attack, 192). -/
theorem test_tick : slotAfter 2 Voice.env (feed (full .sine) tickCycle) = some ⟨.attack, 192#8⟩ := by decide +kernel
/-- 95_test_vectors.md L2.5: (Attack, 192) is clamped to (Decay, 255), and (Release, 32) frees the voice. -/
theorem test_advance : advance 255 ⟨64, 8, 160, 32⟩ ⟨.attack, 192⟩ = ⟨.decay, 255⟩ ∧
    tickVoice (Config.rc0 .sine) (tone 69 ⟨.release, 32⟩) = { tone 0 ⟨.idle, 0⟩ with note := 0 } := by decide +kernel
/-- 46_sample_datapath.md R182 (b). -/
theorem test_sample_sine : after (fun t => (t.out, t.seqTick, t.voices.map (·.phase))) (feed (one .sine) sampleCycle) =
    some (133#10, true, [3712#16, 0#16, 0#16, 0#16]) := by decide +kernel
/-- 46_sample_datapath.md R182 (c) and (d). -/
theorem test_sample_fm_wavetable :
    after State.out (feed (one .fm) sampleCycle) = some 148#10 ∧
    after (fun t => (t.out, t.voices.map (·.samplePos))) (feed (one .wavetable) sampleCycle) =
      some (112#10, [0x200#32, 0#32, 0#32, 0#32]) := by decide +kernel
/-- 95_test_vectors.md L2.7 and L2.8: rounding down, and both settings of OUT_OVERFLOW. -/
theorem test_output : asr (-5) 1 = -3 ∧ asr (-191) 4 = -12 ∧ outputLevel (Config.rc0 .sine) 189 = 255#10 ∧
    outputLevel { Config.rc0 .sine with outOverflow := .wrap } 189 = 61#10 ∧
    outputLevel { Config.rc0 .sine with outOverflow := .wrap } (-191) = 193#10 := by decide +kernel

/-! ### Witnesses: for every statement with hypotheses, a state and operands that meet them -/

theorem legal (k : VoiceKind) : (Config.rc0 k).Legal := by cases k <;> decide +kernel

theorem tone_inv (k : VoiceKind) (n : BitVec 8) (e : Env) (hn : n.toNat ≤ 127) (he : e.vel.toNat ≤ 255) (hs : e.state ≠ .idle) :
    VoiceInv (Config.rc0 k) (tone n e) where
  velLe := ⟨he, (by decide : 128 ≤ 255)⟩
  notIdle := fun _ _ => hs
  levelPos := fun _ _ => (by decide : 0 < 255)
  levelLe := (by decide : 255 ≤ 255)
  inRom := fun _ _ => (by decide : (posByte 0x550#32).toNat < 8)
  inLoop := fun _ _ _ => (by decide : (posByte 0x550#32).toNat < 6 ∧ 6 ≤ 8)
  loopRegs := fun _ => ⟨rfl, fun _ => rfl, fun _ => (by decide : 2 < 6)⟩
  noteLe := hn

/-- Sound states: four voices, or one, sounding, of any kind, with any volume and any inputs. -/
theorem witness_sound (k : VoiceKind) (l : BitVec 4) (ins : List PortCycle) :
    Sound (((full k).setMvol l).setInputs ins) ∧ Sound (((one k).setMvol l).setInputs ins) := by
  constructor
  · refine ⟨legal k, rfl, ?_, (by decide : 0 < 4), (by decide : 128 < 2 ^ 8), (by decide : 0 ≤ 3), Iff.intro (fun _ => rfl) fun _ => rfl⟩
    intro v hv
    simp only [full, State.setInputs_voices, State.setMvol_voices, State.setVoices_voices, List.mem_cons, List.not_mem_nil,
      or_false] at hv
    rcases hv with rfl | rfl | rfl | rfl <;> exact tone_inv k _ _ (by decide) (by decide) (by decide)
  · refine ⟨legal k, rfl, ?_, (by decide : 0 < 4), (by decide : 128 < 2 ^ 8), (by decide : 0 ≤ 3), Iff.intro (fun _ => rfl) fun _ => rfl⟩
    intro v hv
    simp only [one, State.setInputs_voices, State.setMvol_voices, State.setVoices_voices, List.mem_cons, List.not_mem_nil,
      or_false] at hv
    rcases hv with rfl | rfl | rfl | rfl
    · exact tone_inv k _ _ (by decide) (by decide) (by decide)
    all_goals exact voiceInv_reset _

/-- The voice sums of 46_sample_datapath.md R182 (b), (c) and (d). -/
theorem sum_one : voiceSum (one .sine).cfg (one .sine).voices = some 21 ∧ voiceSum (one .fm).cfg (one .fm).voices = some 80 ∧
    voiceSum (one .wavetable).cfg (one .wavetable).voices = some (-64) := by decide +kernel

/-- Words that decode, at both ends of the note range. -/
theorem witness_DecodeThenEncodeGivesTheWord : decodeWord 0x02000000#32 = .ok (.noteOn 0) ∧
    decodeWord 0x0200007F#32 = .ok (.noteOn 127) ∧ decodeWord 0x0700FFFF#32 = .ok (.bip 0xFFFF) := ⟨rfl, rfl, rfl⟩

/-- Each row at the lowest and at the highest word it matches. -/
theorem witness_WordIsACommandExactlyWhenItsRowMatches (o : Opcode) :
    o.rowMatch &&& o.rowMask = o.rowMatch ∧ (o.rowMatch ||| ~~~o.rowMask) &&& o.rowMask = o.rowMatch := by
  cases o <;> decide

/-- Each clause at the ends of its range: the lowest and highest reserved opcode, one reserved bit at either end, and a note of
128 and of 255. -/
theorem witness_DecodingTakesTheFirstFailingCheck :
    (9 ≤ (0x09000000#32).toNat / 2 ^ 24 ∧ 9 ≤ (0xFFFFFFFF#32).toNat / 2 ^ 24) ∧
    ((0x08000001#32).toNat / 2 ^ 24 < 9 ∧ 0x08000001#32 &&& Spec.reservedBits 8 ≠ 0#32 ∧
      0x02000100#32 &&& Spec.reservedBits 2 ≠ 0#32 ∧ 0x07010000#32 &&& Spec.reservedBits 7 ≠ 0#32) ∧
    (0x02000080#32 &&& Spec.reservedBits 2 = 0#32 ∧ (0x02000080#32).getLsbD 7 = true ∧
      0x030000FF#32 &&& Spec.reservedBits 3 = 0#32 ∧ (0x030000FF#32).getLsbD 7 = true) ∧
    (0x0200007F#32 &&& Spec.reservedBits 2 = 0#32 ∧ (0x0200007F#32).getLsbD 7 = false) ∧
    decodeWord 0x09000000#32 = .error .reservedOpcode := ⟨by decide, by decide, by decide, by decide, rfl⟩

/-- The last address of a READ and the first that is refused. -/
theorem witness_AssemblerGivesEachLineItsCycles : AsmLine.wf (.read 255) = true ∧ AsmLine.wf (.read 256) = false := by decide

/-- Byte lists of three and of four bytes. -/
theorem witness_ByteSerialWordsAreLittleEndian : ([1#8, 2#8, 3#8] : List Byte).length < 4 ∧
    takeWord [0x45#8, 0#8, 0#8, 2#8] = some (0x02000045#32, []) := by decide

theorem witness_StepRunsTheDecodedCommand : let s := feed (one .sine) (.command 0x02000045#32)
    s.cfg.Legal ∧ s.inputs = .command 0x02000045#32 :: [] ∧ (PortCycle.command 0x02000045#32).rst = false ∧
      (PortCycle.command 0x02000045#32).sampleStrobe = false ∧ (PortCycle.command 0x02000045#32).tickStrobe = false ∧
      (PortCycle.command 0x02000045#32).cmdValid = true ∧
      decodeWord (PortCycle.command 0x02000045#32).cmdData = .ok (.noteOn 69) :=
  ⟨legal _, rfl, rfl, rfl, rfl, rfl, rfl⟩

theorem witness_StepRunsASingleStrobe : (feed (one .sine) tickCycle).cfg.Legal ∧
    (feed (one .sine) tickCycle).inputs = tickCycle :: [] ∧ tickCycle.rst = false ∧ tickCycle.cmdValid = false ∧
    tickCycle.sampleStrobe = false ∧ tickCycle.tickStrobe = true ∧ (feed (one .sine) sampleCycle).inputs = sampleCycle :: [] ∧
    sampleCycle.rst = false ∧ sampleCycle.cmdValid = false ∧ sampleCycle.sampleStrobe = true ∧
    sampleCycle.tickStrobe = false := ⟨legal _, rfl, rfl, rfl, rfl, rfl, rfl, rfl, rfl, rfl, rfl⟩

/-- A cycle with every event, with and without a reset. -/
theorem witness_EventsOfACycleRunInTheirFixedOrder :
    let c : PortCycle := ⟨false, true, 0x01000000#32, true, true, 0#8⟩
    (feed (full .fm) c).cfg.Legal ∧ (feed (full .fm) c).inputs = c :: [] ∧ c.rst = false ∧
      (feed (full .fm) { c with rst := true }).inputs = { c with rst := true } :: [] := ⟨legal _, rfl, rfl, rfl⟩

theorem witness_ResetCycleIgnoresEveryOtherEvent :
    let s := (full .sine).setInputs [resetCycle, sampleCycle]
    s.cfg.Legal ∧ s.inputs = resetCycle :: [sampleCycle] ∧ resetCycle.rst = true ∧ sampleCycle.rst = false :=
  ⟨legal _, rfl, rfl, rfl⟩

theorem witness_ResetAndInitLeaveTheResetValues : (Config.rc0 .fm).Legal ∧ (feed (full .fm) resetCycle).cfg.Legal ∧
    (feed (full .fm) resetCycle).inputs = resetCycle :: [] ∧ resetCycle.rst = true := ⟨legal _, legal _, rfl, rfl⟩

/-- An error with none before it, one with another before it, and the three things that clear one. -/
theorem witness_CommandErrorIsStickyAndWritesNothingElse : decodeWord 0x09000000#32 = .error .reservedOpcode ∧
    (base .sine).err = false ∧ ((base .sine).setErr true 3#4).err = true ∧
    after State.err (feed ((base .sine).setErr true 3#4) sampleCycle) = some true ∧
    after State.err (feed ((base .sine).setErr true 3#4) resetCycle) = some false ∧
    after State.err (feed ((base .sine).setErr true 3#4) (.command 0x08000000#32)) = some false ∧
    after State.err (feed ((base .sine).setErr true 3#4) (.command 0x01000000#32)) = some false := by
  refine ⟨rfl, rfl, rfl, ?_, ?_, ?_, ?_⟩ <;> decide +kernel

/-- Two quiet cycles given, and none waiting, with a pulse shown and without one. -/
theorem witness_QuietCyclesChangeNothing :
    (let s := (one .sine).setInputs [PortCycle.quiet, PortCycle.quiet]
    s.cfg.Legal ∧ s.inputs = [PortCycle.quiet, PortCycle.quiet] ++ [] ∧ s.seqTick = false ∧
      ∀ c ∈ [PortCycle.quiet, PortCycle.quiet],
        c.rst = false ∧ c.cmdValid = false ∧ c.tickStrobe = false ∧ c.sampleStrobe = false) ∧
    (one .sine).cfg.Legal ∧ (one .sine).inputs = [] ∧ (one .sine).seqTick = false ∧
    ((one .sine).setSeqTick true).nextInput = PortCycle.quiet ∧ PortCycle.quiet.rst = false ∧
    PortCycle.quiet.cmdValid = false ∧ PortCycle.quiet.tickStrobe = false ∧ PortCycle.quiet.sampleStrobe = false :=
  ⟨⟨legal _, rfl, rfl, by decide⟩, legal _, rfl, rfl, rfl, rfl, rfl, rfl, rfl⟩

theorem witness_IllegalConfigurationIsRefused :
    ¬ (State.resetOf { Config.rc0 .sine with nVoices := 16 }).cfg.Legal := by decide +kernel

theorem witness_TablesAndConfigurationAreNeverWritten : (∃ t, exec .allOff (one .sine) = .next t) ∧
    (after State.out (feed (one .sine) sampleCycle)).isSome = true := ⟨⟨_, rfl⟩, by decide +kernel⟩

/-- A SAMPLE, a SAMPLE with an INIT, and none. -/
theorem witness_SeqTickFollowsExactlyTheSampleCycles : after State.seqTick (feed (one .sine) sampleCycle) = some true ∧
    after State.seqTick (feed (one .sine) { PortCycle.command 0x01000000#32 with sampleStrobe := true }) = some false ∧
    after State.seqTick (feed ((one .sine).setSeqTick true) tickCycle) = some false := by
  refine ⟨?_, ?_, ?_⟩ <;> decide +kernel

theorem witness_EveryStepKeepsTheInvariant (k : VoiceKind) : Sound (((full k).setMvol 0).setInputs [tickCycle]) ∧
    ∃ t, step (((full k).setMvol 0).setInputs [tickCycle]) = .next t :=
  ⟨(witness_sound k _ _).1, _, (step_of_inputs (legal k) rfl).trans (runCycle_of_not_rst _ rfl)⟩

theorem witness_MachineNeverStops (k : VoiceKind) : Sound (((one k).setMvol 0).setInputs [sampleCycle]) :=
  (witness_sound k _ _).2

theorem witness_ReachableStatesMeetTheSlotClaims (k : VoiceKind) : Reachable (Config.rc0 k) (base k) := .reset (legal k)

/-- The three writers. -/
theorem witness_MasterVolumeHasOnlyItsThreeWriters :
    after State.mvol (feed (one .sine) (.command 0x0600000F#32)) = some 15#4 ∧ (one .sine).mvol = 0#4 ∧
    after State.mvol (feed ((one .sine).setMvol 3) resetCycle) = some 0#4 ∧
    after State.mvol (feed ((one .sine).setMvol 3) (.command 0x01000000#32)) = some 0#4 := by
  refine ⟨?_, rfl, ?_, ?_⟩ <;> decide +kernel

/-- Each register changed by its writer. -/
theorem witness_GlobalRegistersHaveOnlyTheirWriters :
    (nextState? (exec (.noteOn 1) (full .sine))).map State.rr = some 1#4 ∧
    (nextState? (exec (.setMvol 1) (full .sine))).map State.mvol = some 1#4 ∧
    (nextState? (exec (.setFm 2 0) (full .sine))).map (fun t => (t.fmHr, t.fmDepth)) = some (2#8, 0#4) ∧
    (nextState? (exec (.bip 3) (full .sine))).map State.bipCount = some 3#16 ∧
    (nextState? (exec .sample ((one .sine).setBipCount 1))).map (fun t => (t.bipCount, t.bipPhase)) = some (0#16, 0x1000#16) ∧
    (nextState? (exec .sample (one .sine))).map (fun t => (t.out, t.seqTick)) = some (133#10, true) ∧
    (nextState? (exec .clrErr ((one .sine).setErr true 2))).map State.err = some false := by
  refine ⟨?_, ?_, ?_, ?_, ?_, ?_, ?_⟩ <;> decide +kernel

/-- Each field changed by its writers. -/
theorem witness_SlotFieldsHaveOnlyTheirWriters :
    (nextState? (exec (.noteOn 36) (base .sine))).bind (fun t => t.voices[0]?.map fun v => (v.note, v.step, v.env.state, v.level)) =
      some (36#8, 272#16, .attack, 255#8) ∧
    (nextState? (exec (.noteOff 69) (one .sine))).bind (fun t => t.voices[0]?.map fun v => (v.env.state, v.rel)) =
      some (.release, true) ∧
    (nextState? (exec .allOff (one .sine))).bind (fun t => t.voices[0]?.map Voice.note) = some 0#8 ∧
    (nextState? (exec .tick (one .sine))).bind (fun t => t.voices[0]?.map Voice.env) = some ⟨.decay, 247#8⟩ ∧
    (nextState? (exec .sample (one .sine))).bind (fun t => t.voices[0]?.map Voice.phase) = some 3712#16 := by
  refine ⟨?_, ?_, ?_, ?_, ?_⟩ <;> decide +kernel

/-- Two states of a sine instance that differ in a wavetable level alone. -/
theorem witness_UnusedSlotFieldsAreNeverHeard :
    Spec.SameSound ((base .sine).setVoices [tone 69 ⟨.decay, 255⟩])
      ((base .sine).setVoices [{ tone 69 ⟨.decay, 255⟩ with level := 1 }]) ∧
    ∃ t, exec .tick ((base .sine).setVoices [tone 69 ⟨.decay, 255⟩]) = .next t :=
  ⟨⟨.cons ⟨rfl, rfl, rfl, rfl⟩ .nil, rfl⟩, _, rfl⟩

theorem witness_InitReturnsToTheResetValues : (full .fm).cfg.Legal ∧ resetCycle.rst = true ∧ (full .fm).cfg = Config.rc0 .fm :=
  ⟨legal _, rfl, rfl⟩

/-- A free slot, and a steal at the last slot. -/
theorem witness_NoteOnSelectsASlotAndInitialisesIt :
    ((one .sine).cfg.Legal ∧ (36 : BitVec 7) ≠ 0#7 ∧ Spec.Selects (one .sine) 1 0#4 ∧ (one .sine).voices[1]? = some Voice.reset) ∧
    (Spec.Selects ((full .sine).setRr 3) 3 0#4 ∧ ((full .sine).setRr 3).voices[3]? = some (tone 71 ⟨.sustain, 160⟩)) := by
  refine ⟨⟨legal _, by decide, .inl ⟨⟨Voice.reset, rfl, rfl⟩, ?_, rfl⟩, rfl⟩, .inr ⟨?_, rfl, by decide⟩, rfl⟩
  · intro j hj u hu
    obtain rfl : j = 0 := by omega
    cases hu; decide
  · intro u hu
    simp only [full, State.setRr_voices, State.setVoices_voices, List.mem_cons, List.not_mem_nil, or_false] at hu
    rcases hu with rfl | rfl | rfl | rfl <;> decide

/-- A legal instance with LOOP_END = 2^24, with a LOOP_START that has a value above it and with the one that has none. -/
theorem witness_loop_end_past_the_register :
    let c := { Config.rc0 .wavetable with wtLen := 2 ^ 24, loopEnd := 2 ^ 24 }
    c.Legal ∧ c.loopStart < 2 ^ 24 - 1 ∧ ¬ c.loopEnd < 2 ^ 24 ∧ { c with loopStart := 2 ^ 24 - 1 }.Legal := by decide +kernel

theorem witness_NoteOnLeavesEverythingElse : (∃ t, exec (.noteOn 36) (one .sine) = .next t) ∧ (0 : Nat) ≠ slotFor (one .sine) :=
  ⟨⟨_, exec_noteOn (v := Voice.reset) (by decide) rfl⟩, by decide⟩

theorem full_active (k : VoiceKind) : ∀ v ∈ (full k).voices, v.note ≠ 0#8 := by
  intro v hv
  simp only [full, State.setVoices_voices, List.mem_cons, List.not_mem_nil, or_false] at hv
  rcases hv with rfl | rfl | rfl | rfl <;> decide

theorem witness_FullPoolIsNoError (k : VoiceKind) : Sound (((full k).setMvol 0).setInputs []) ∧ (36 : BitVec 7) ≠ 0#7 ∧
    ∀ v ∈ (((full k).setMvol 0).setInputs []).voices, v.note ≠ 0#8 := ⟨(witness_sound k _ _).1, by decide, full_active k⟩

/-- The first pointer past the slots. -/
theorem witness_NoteOnStopsOnlyWithoutASlot : (36 : BitVec 7) ≠ 0#7 ∧ (∀ v ∈ ((full .sine).setRr 4).voices, v.note ≠ 0#8) ∧
    ((full .sine).setRr 4).voices.length ≤ ((full .sine).setRr 4).rr.toNat := ⟨by decide, full_active .sine, by decide⟩

theorem witness_NoteOffReleasesEveryHolder : (127 : BitVec 7) ≠ 0#7 := by decide

theorem witness_AllOffFreesEveryVoiceAndNothingElse : ∀ v ∈ ((base .sine).setVoices [Voice.reset]).voices, v.note = 0#8 := by
  intro v hv
  simp only [State.setVoices_voices, List.mem_cons, List.not_mem_nil, or_false] at hv
  subst hv; rfl

/-- Each arm at the boundary of its condition. -/
theorem witness_EnvelopeAdvanceFollowsItsArms : (255 : Nat) ≤ 255 ∧ (EnvRates.mk 64 8 160 32).Legal 255 ∧
    191 + 64 ≥ 255 ∧ 190 + 64 < 255 ∧ (168 : Int) - 8 ≤ 160 ∧ (169 : Int) - 8 > 160 ∧ (32 : Int) - 32 ≤ 0 ∧
    (33 : Int) - 32 > 0 := by decide

theorem witness_EnvelopeTrajectoryFromAttackToSustain : (EnvRates.mk 64 8 160 32).Legal 255 ∧ (EnvRates.mk 1 255 127 1).Legal 127 ∧
    3 < Spec.ceilDiv 255 64 ∧ 11 < max 1 (Spec.ceilDiv (255 - 160) 8) := by decide

/-- From vel 160, freed at the 5th TICK; from vel 0, at the first (45_envelope_tick.md R152). -/
theorem witness_ReleasedVoiceIsFreedAfterExactlyItsTicks : (full .sine).cfg.Legal ∧ (full .sine).cfg.voiceKind ≠ .wavetable ∧
    (71 : BitVec 7) ≠ 0#7 ∧ (full .sine).voices[3]? = some (tone 71 ⟨.sustain, 160⟩) ∧
    (tone 71 ⟨.sustain, 160⟩).note = (71 : BitVec 7).setWidth 8 ∧ 4 < Spec.releaseTicks 160 32 ∧ Spec.releaseTicks 160 32 ≤ 5 ∧
    Spec.releaseTicks 0 32 = 1 := ⟨legal _, by decide, by decide, rfl, rfl, by decide, by decide, by decide⟩

theorem witness_TickAdvancesActiveVoicesOnly : tickCycle.rst = false ∧ tickCycle.sampleStrobe = false ∧
    tickCycle.cmdValid = false := ⟨rfl, rfl, rfl⟩

theorem witness_WavetableLevelDecaysLinearlyToItsRelease : (full .wavetable).cfg.Legal ∧
    (full .wavetable).cfg.voiceKind = .wavetable ∧ (71 : BitVec 7) ≠ 0#7 ∧
    (full .wavetable).voices[3]? = some (tone 71 ⟨.sustain, 160⟩) ∧
    (tone 71 ⟨.sustain, 160⟩).note = (71 : BitVec 7).setWidth 8 ∧ (tone 71 ⟨.sustain, 160⟩).level ≠ 0#8 ∧
    (tone 71 ⟨.sustain, 160⟩).rel = false ∧ 3 < Spec.ceilDiv 255 64 ∧ Spec.ceilDiv 255 64 ≤ 4 :=
  ⟨legal _, rfl, by decide, rfl, rfl, by decide, rfl, by decide, by decide⟩

theorem witness_SampleComputesTheWholeMix (k : VoiceKind) : (one k).cfg.Legal ∧ Spec.Readable (one k) := by
  refine ⟨legal k, fun _ v hv hn => ?_⟩
  simp only [one, State.setVoices_voices, List.mem_cons, List.not_mem_nil, or_false] at hv
  rcases hv with rfl | rfl | rfl | rfl
  · exact (by decide : (0x550#32).toNat / 2 ^ 8 < 8)
  all_goals exact absurd rfl hn

/-- A cursor at WT_LEN, the first that is not readable. -/
theorem witness_SampleStopsOnlyOnAReadOutsideTheRom :
    ¬ Spec.Readable ((base .wavetable).setVoices [{ tone 69 ⟨.decay, 255⟩ with samplePos := 0x800 }]) := by
  intro h
  exact absurd (h rfl _ (List.mem_cons_self ..) (by decide)) (by decide)

/-- The rows −1 and 1 of 95_test_vectors.md L2.7, and the last row. -/
theorem witness_AttenuationRoundsDownAndIsMonotone : (0 ≤ (1 : Int) ∧ asr 1 0 ≠ 0 ∧ asr 1 1 = 0) ∧
    ((-1 : Int) < 0 ∧ asr (-1) 0 = -1) ∧ ((-191 : Int) < 0 ∧ asr (-191) 7 ≠ -1 ∧ (-191 : Int).natAbs ≤ 2 ^ 8) := by decide

theorem witness_OutputLevelStaysInItsBits (k : VoiceKind) : (Config.rc0 k).Legal := legal k

theorem witness_EveryIntermediateFitsSixteenBits : Sound (((one .sine).setMvol 0).setInputs []) ∧
    voiceSum (((one .sine).setMvol 0).setInputs []).cfg (((one .sine).setMvol 0).setInputs []).voices = some 21 :=
  ⟨(witness_sound _ _ _).2, sum_one.1⟩

theorem witness_BipSoundsForExactlyItsSamples (k : VoiceKind) : Sound (((full k).setMvol 0).setInputs []) ∧
    2 < (3#16).toNat ∧ (3#16).toNat ≤ 3 := ⟨(witness_sound _ _ _).1, by decide, by decide⟩

/-- A cursor that reaches `loop_end` exactly, and one just below it. -/
theorem witness_WavetableCursorStaysInItsLoop : let v := tone 36 ⟨.attack, 0⟩
    v.loopStart.toNat < v.loopEnd.toNat ∧
    v.loopEnd.toNat ≤ (0x4F0 + v.sampleStep.toNat) % 2 ^ 32 / 2 ^ 8 ∧
    (0x4EF + v.sampleStep.toNat) % 2 ^ 32 / 2 ^ 8 < v.loopEnd.toNat := by decide

theorem witness_SlotOrderDoesNotChangeTheSample :
    (one .sine).voices.Perm [Voice.reset, tone 69 ⟨.decay, 255⟩, Voice.reset, Voice.reset] ∧
      ∃ t, exec .sample (one .sine) = .next t := ⟨.swap _ _ _, _, exec_sample sum_one.1⟩

theorem witness_SampleAfterAllOffIsSilent : (full .fm).cfg.Legal ∧ (full .fm).bipCount = 0#16 := ⟨legal _, rfl⟩

theorem witness_StrongAttenuationLeavesOnlyTwoLevels : let s := (one .sine).setMvol 8
    s.cfg = Config.rc0 .sine ∧ s.voices.length = 4 ∧ 8 ≤ s.mvol.toNat ∧ ∃ t, exec .sample s = .next t :=
  ⟨rfl, rfl, by decide, _, exec_sample (s := (one .sine).setMvol 8) sum_one.1⟩

theorem witness_OutCfgAndBipReadTheirRegisters : (one .sine).out.toNat < 2 ^ (one .sine).cfg.outW := by decide

/-- The widest ACTIVE field is 15 bits: slot 14 of it is absent here, slot 0 sounds. -/
theorem witness_StatusShowsErrorBipPointerAndActivity : (one .sine).cfg.nVoices ≤ 15 ∧
    (one .sine).voices.length = (one .sine).cfg.nVoices ∧ (14 : Nat) < 15 ∧
    (one .sine).voices[0]? = some (tone 69 ⟨.decay, 255⟩) ∧ (tone 69 ⟨.decay, 255⟩).note ≠ 0#8 :=
  ⟨by decide, rfl, by decide, rfl, by decide⟩

theorem witness_IdShowsTheConfiguration : (one .sine).cfg.Legal ∧ (full .sine).cfg = (one .sine).cfg := ⟨legal _, rfl⟩

theorem witness_VoiceBlockReadsItsSlot : 3 < (full .sine).cfg.nVoices ∧ (full .sine).cfg.nVoices ≤ 15 ∧
    (full .sine).voices[3]? = some (tone 71 ⟨.sustain, 160⟩) ∧
    ∀ k < 16, (fun k => readPort (full .sine) (BitVec.ofNat 8 (0x10 + 16 * 3 + k))) k =
      readPort (full .sine) (BitVec.ofNat 8 (0x10 + 16 * 3 + k)) := ⟨by decide, by decide, rfl, fun _ _ => rfl⟩

/-- The first absent voice, the last address, and both ends of the reserved addresses. -/
theorem witness_AbsentVoicesAndReservedAddressesReadZero : (one .sine).cfg.nVoices ≤ 4 ∧ 0x10 + 16 * 14 + 15 ≤ 0xFF ∧
    5 ≤ (0x05#8).toNat ∧ (0x0F#8).toNat ≤ 15 := by decide

/-- A canonical list, an address it lists and one it does not; WT_LEN itself and the address below it. -/
theorem witness_TableReadsAnswerTheirEntries : Memory.wf (Config.rc0 .wavetable).wtData = true ∧
    (6, 0x81#8) ∈ (Config.rc0 .wavetable).wtData ∧ (∀ p ∈ (Config.rc0 .wavetable).wtData, p.1 ≠ 4) ∧
    7 < (Config.rc0 .wavetable).wtLen ∧ (Config.rc0 .wavetable).wtLen ≤ 8 ∧ (Config.rc0 .wavetable).maxv = 255 := by
  decide +kernel

end Sys2Proof.Tests
end

namespace Sys2Proof.Machine

/-! ## 10_state.md: the reset values (R55) and the read port (R40 to R49) -/

/-- The reset value of `out` is OUT_OFFSET itself: no legal OUT_W clips it. -/
theorem toNat_resetOf_out {c : Config} (hl : c.Legal) : (State.resetOf c).out.toNat = 2 ^ (c.outW - 1) := by
  obtain ⟨hle, hlt⟩ := hl.outOffset
  have hmin : min c.outOffset (2 ^ c.outW - 1) = c.outOffset := by omega
  change (BitVec.ofNat 10 (min c.outOffset (2 ^ c.outW - 1))).toNat = c.outOffset
  rw [hmin, BitVec.toNat_ofNat, Nat.mod_eq_of_lt (by omega)]

theorem atReset_resetOf {c : Config} (hl : c.Legal) : Spec.AtReset c (State.resetOf c) := by
  have hslot : ∀ v ∈ (State.resetOf c).voices, v = Voice.reset := fun v hv => List.eq_of_mem_replicate hv
  obtain ⟨-, hhr, hdepth⟩ := hl.fmReset
  constructor
  case slots => exact List.length_replicate
  case fm => exact ⟨Nat.mod_eq_of_lt (by omega), Nat.mod_eq_of_lt (by omega)⟩
  case out => exact toNat_resetOf_out hl
  case note | stepPhase | env | modStepPhase | modEnv | modDepth | cursor | loop | level =>
    intro v hv
    simp [hslot v hv, Voice.reset]
  case rr | mvol | bip | err | seqTick => simp [State.resetOf]

/-- `reinit` differs from the reset state only in the model's own fields, which the table does not name. -/
theorem atReset_reinit {s : State} (hl : s.cfg.Legal) : Spec.AtReset s.cfg s.reinit :=
  { atReset_resetOf hl with }

/-! ### The address map (R41) -/

section addresses
variable (s : State)

@[simp] theorem readPort_zero : readPort s 0#8 = outWord s := rfl
@[simp] theorem readPort_one : readPort s 1#8 = statusWord s := rfl
@[simp] theorem readPort_two : readPort s 2#8 = cfgWord s := rfl
@[simp] theorem readPort_three : readPort s 3#8 = bipWord s := rfl
@[simp] theorem readPort_four : readPort s 4#8 = idWord s.cfg := rfl

/-- Past the five global registers lie the reserved addresses and then the voice blocks. -/
theorem readPort_of_five_le {a : BitVec 8} (h : 5 ≤ a.toNat) : readPort s a =
    if a.toNat < 16 then 0#32 else voiceRegister s ((a.toNat - 16) / 16) ((a.toNat - 16) % 16) := by
  unfold readPort
  split
  case h_6 => rfl
  all_goals omega

theorem readPort_reserved {a : BitVec 8} (h : 5 ≤ a.toNat) (h' : a.toNat ≤ 15) : readPort s a = 0#32 := by
  rw [readPort_of_five_le s h, if_pos (by omega)]

/-- Address `0x10 + 16·i + k` is register `k` of slot `i` (R48). -/
theorem readPort_voiceBlock {i k : Nat} (hk : k < 16) (ha : 0x10 + 16 * i + k ≤ 0xFF) :
    readPort s (BitVec.ofNat 8 (0x10 + 16 * i + k)) = voiceRegister s i k := by
  have haddr : (BitVec.ofNat 8 (0x10 + 16 * i + k)).toNat = 0x10 + 16 * i + k := by
    rw [BitVec.toNat_ofNat, Nat.mod_eq_of_lt (by omega)]
  have hslot : (0x10 + 16 * i + k - 16) / 16 = i := by omega
  have hreg : (0x10 + 16 * i + k - 16) % 16 = k := by omega
  rw [readPort_of_five_le s (by omega), haddr, if_neg (by omega), hslot, hreg]

theorem voiceRegister_of_absent {i : Nat} (h : s.cfg.nVoices ≤ i) (k : Nat) : voiceRegister s i k = 0#32 := by
  rw [voiceRegister, if_neg (by omega)]

variable {s}

theorem voiceRegister_of_slot {i : Nat} {v : Voice} (hi : i < s.cfg.nVoices) (hv : s.voices[i]? = some v) (k : Nat) :
    voiceRegister s i k = voiceWord v k := by
  rw [voiceRegister, if_pos hi, hv]

end addresses

/-! ### The fields of the words

A word is its fields joined, lowest last. `extractLsb'_append_eq_of_le` and `getLsbD_append` step over the fields below
the one asked for, `extractLsb'_append_eq_right` and `extractLsb'_eq_self` take it. -/

section fields
open BitVec

theorem toNat_outWord {s : State} (h : s.out.toNat < 2 ^ s.cfg.outW) : (outWord s).toNat = s.out.toNat := by
  rw [outWord, Nat.mod_eq_of_lt h, toNat_ofNat, Nat.mod_eq_of_lt (by omega)]

theorem testBit_activeMask (vs : List Voice) (i : Nat) :
    (activeMask vs).testBit i = true ↔ ∃ v, vs[i]? = some v ∧ v.note ≠ 0#8 := by
  induction vs generalizing i with
  | nil => simp [activeMask]
  | cons v vs ih =>
    rw [activeMask]
    cases i with
    | zero => cases hv : v.active <;> simp_all [Nat.testBit_zero, Voice.active_eq_false]
    | succ i =>
      have hhalf : (v.active.toNat + 2 * activeMask vs) / 2 = activeMask vs := by have := v.active.toNat_le; omega
      rw [Nat.testBit_succ, hhalf, ih, List.getElem?_cons_succ]

theorem getLsbD_activeBits {s : State} (hlen : s.voices.length = s.cfg.nVoices) {i : Nat} (hi : i < 15) :
    s.activeBits.getLsbD i = true ↔ ∃ v, s.voices[i]? = some v ∧ v.note ≠ 0#8 := by
  rw [State.activeBits, List.take_of_length_le hlen.le, getLsbD_ofNat, decide_eq_true hi, Bool.true_and,
    testBit_activeMask]

theorem extractLsb'_statusWord_active (s : State) : (statusWord s).extractLsb' 16 15 = s.activeBits := by
  simp only [statusWord, extractLsb'_append_eq_of_le, extractLsb'_append_eq_right, Nat.reduceSub, Nat.reduceLeDiff]

theorem getLsbD_statusWord_active (s : State) {i : Nat} (hi : i < 15) :
    (statusWord s).getLsbD (16 + i) = s.activeBits.getLsbD i := by
  rw [← extractLsb'_statusWord_active, getLsbD_extractLsb', decide_eq_true hi, Bool.true_and]

theorem EnvState.code_eq_envCode (e : EnvState) : e.code = Spec.envCode e := by cases e <;> rfl

/-- The registers past the tenth are reserved (R48). -/
theorem voiceWord_reserved (v : Voice) {k : Nat} (h : 10 ≤ k) : voiceWord v k = 0#32 := by
  unfold voiceWord
  split
  case h_11 => rfl
  all_goals omega

end fields

/-! ### The obligations -/

/-- Settles O12: RESET and INIT both leave `reinit`, which is at the reset values as the reset state is. -/
theorem resetAndInitLeaveTheResetValues : Obligations.ResetAndInitLeaveTheResetValues := by
  refine ⟨fun c hl => atReset_resetOf hl, fun s c rest hl hin hrst => ⟨s.beginCycle.reinit, ?_, ?_⟩,
    fun s hl => ⟨s.reinit, exec_init s, atReset_reinit hl⟩⟩
  · rw [step_of_inputs hl hin, runCycle_of_rst s hrst]
  · exact atReset_reinit (s := s.beginCycle) hl

section settle
open BitVec

/-- Settles O56: ACTIVE by its mask, the other fields by their places in the word. -/
theorem statusShowsErrorBipPointerAndActivity : Obligations.StatusShowsErrorBipPointerAndActivity := by
  intro s _ hlen
  simp only [ofNat_eq_ofNat, readPort_one]
  refine ⟨?_, fun i hi => ?_⟩
  · simp only [statusWord, extractLsb'_append_eq_of_le, extractLsb'_append_eq_right, getLsbD_append,
      getLsbD_ofBool, getLsbD_zero, decide_true, Bool.true_and, State.bipActive_iff, Nat.reduceSub, Nat.reduceLeDiff,
      Nat.reduceLT, if_true, if_false, true_and]
  · rw [getLsbD_statusWord_active s hi, getLsbD_activeBits hlen hi]

/-- Settles O58: an address of the block reads a register of the slot, whose fields lie at their places. -/
theorem voiceBlockReadsItsSlot : Obligations.VoiceBlockReadsItsSlot := by
  intro s i v r hi hn hv hr
  have hword : ∀ k < 16, r k = voiceWord v k := fun k hk => by
    rw [hr k hk, readPort_voiceBlock s hk (by omega), voiceRegister_of_slot hi hv]
  have hreserved : ∀ k, 10 ≤ k → k < 16 → r k = 0#32 := fun k h10 hk => by
    rw [hword k hk, voiceWord_reserved v h10]
  simp only [hword, voiceWord, extractLsb'_append_eq_of_le, extractLsb'_append_eq_right, extractLsb'_eq_self,
    getLsbD_append, getLsbD_ofBool, decide_true, Bool.true_and, EnvState.code_eq_envCode, toNat_setWidth_of_le,
    Nat.reduceSub, Nat.reduceLeDiff, Nat.reduceLT, if_true, if_false, true_and, and_true]
  exact hreserved

/-- Settles O55: the fields of CFG and BIP lie at their places, and OUT loses no bit of an `out` within OUT_W bits. -/
theorem outCfgAndBipReadTheirRegisters : Obligations.OutCfgAndBipReadTheirRegisters := by
  intro s
  refine ⟨toNat_outWord, ?_⟩
  simp only [ofNat_eq_ofNat, readPort_two, readPort_three, cfgWord, bipWord, extractLsb'_append_eq_of_le,
    extractLsb'_append_eq_right, extractLsb'_eq_self, Nat.reduceSub, Nat.reduceLeDiff, true_and]

/-- Settles O57: the word is a function of the configuration, and a legal N_VOICES and OUT_W fit their fields. -/
theorem idShowsTheConfiguration : Obligations.IdShowsTheConfiguration := by
  intro s hl
  have hn : s.cfg.nVoices < 2 ^ 8 := by have := hl.nVoices; omega
  have hw : s.cfg.outW < 2 ^ 4 := by have := hl.outW; omega
  have hconst : ∀ t : State, t.cfg = s.cfg → readPort t 4#8 = readPort s 4#8 := fun t ht => by
    rw [readPort_four, readPort_four, ht]
  refine ⟨?_, ?kind, ?_, ?_, ?_, ?_, ?_, hconst⟩
  all_goals simp only [ofNat_eq_ofNat, readPort_four, idWord, extractLsb'_append_eq_of_le,
    extractLsb'_append_eq_right, extractLsb'_eq_self, getLsbD_append, getLsbD_ofBool, decide_true, Bool.true_and,
    decide_eq_true_eq, toNat_ofNat, Nat.mod_eq_of_lt hn, Nat.mod_eq_of_lt hw, Nat.reduceSub, Nat.reduceLeDiff,
    Nat.reduceLT, if_true, if_false]
  case kind => cases s.cfg.voiceKind <;> rfl

/-- Settles O59: an absent slot has no registers, and no word is mapped below the voice blocks. -/
theorem absentVoicesAndReservedAddressesReadZero : Obligations.AbsentVoicesAndReservedAddressesReadZero := by
  intro s
  refine ⟨fun i k hi hk ha => ?_, fun a => readPort_reserved s⟩
  rw [readPort_voiceBlock s hk ha, voiceRegister_of_absent s hi]

end settle

end Sys2Proof.Machine

namespace Sys2Proof

/-! ## 30_encoding.md: the rows (R84), the order of the checks (R85) and the worked encodings (R90) -/

theorem opcField_and (w m : Word) : opcField (w &&& m) = opcField w &&& opcField m := BitVec.extractLsb'_and

theorem toNat_opcField (w : Word) : (opcField w).toNat = w.toNat / 2 ^ 24 := by
  rw [opcField, BitVec.extractLsb'_toNat, Nat.shiftRight_eq_div_pow, Nat.mod_eq_of_lt (by omega)]

namespace Opcode

/-! ### The columns of a row -/

section columns
variable (o : Opcode)

theorem rowMatch_and_rowMask : o.rowMatch &&& o.rowMask = o.rowMatch := by cases o <;> rfl

/-- A mask covers the whole opcode field. -/
theorem opcField_rowMask : opcField o.rowMask = BitVec.allOnes 8 := by cases o <;> rfl

/-- A mask covers every bit that check 2 requires to be 0. -/
theorem rowMask_and_reservedBits : o.rowMask &&& o.reservedBits = o.reservedBits := by cases o <;> rfl

theorem rowMatch_and_reservedBits : o.rowMatch &&& o.reservedBits = 0#32 := by cases o <;> rfl

variable {o}

/-- Bit 7 of a note, which check 3 requires to be 0, is in the mask of its row. -/
theorem getLsbD_seven_of_takesNote (h : o.takesNote = true) :
    o.rowMask.getLsbD 7 = true ∧ o.rowMatch.getLsbD 7 = false := by
  cases o
  case noteOn | noteOff => exact ⟨rfl, rfl⟩
  all_goals cases h

/-- The check of R85 on an opcode is the check of its row. -/
theorem reservedBits_of_ofField {f : BitVec 8} (h : ofField f = some o) : o.reservedBits = Spec.reservedBits f.toNat := by
  rw [ofField_eq_some h]; cases o <;> rfl

theorem takesNote_of_ofField {f : BitVec 8} (h : ofField f = some o) :
    o.takesNote = true ↔ f.toNat = 0x02 ∨ f.toNat = 0x03 := by
  rw [ofField_eq_some h]; cases o <;> decide

theorem exists_ofField {f : BitVec 8} (h : f.toNat < 0x09) : ∃ o, ofField f = some o := by
  refine Option.ne_none_iff_exists'.mp fun hnone => ?_
  exact absurd (ofField_eq_none.mp hnone) (Nat.not_le.mpr h)

/-- A command names its row. -/
theorem eq_of_instr_eq {o' : Opcode} {w w' : Word} (h : o.instr w = o'.instr w') : o = o' := by
  have hrow : ∀ (p : Opcode) (v : Word), Laws.EncodingRow.rowOf (p.instr v) = some p := fun p v => by cases p <;> rfl
  exact Option.some_inj.mp ((hrow o w).symm.trans ((congrArg _ h).trans (hrow o' w')))

end columns

/-! ### A row as the checks of R85 -/

/-- A word that matches a row has its opcode and passes its checks. -/
theorem checks_of_row {o : Opcode} {w : Word} (h : w &&& o.rowMask = o.rowMatch) :
    ofField (opcField w) = some o ∧ w &&& o.reservedBits = 0#32 ∧ (o.takesNote = true → w.getLsbD 7 = false) := by
  refine ⟨?_, ?_, fun hn => ?_⟩
  · have hfield : opcField w = opcField o.rowMatch := by
      rw [← h, opcField_and, opcField_rowMask, BitVec.and_allOnes]
    rw [hfield, opcField, ofField_rowMatch]
  · rw [← rowMask_and_reservedBits, ← BitVec.and_assoc, h, rowMatch_and_reservedBits]
  · obtain ⟨hmask, hmatch⟩ := getLsbD_seven_of_takesNote hn
    rwa [← h, BitVec.getLsbD_and, hmask, Bool.and_true] at hmatch

/-- A word is its row's match with its operand bits, so masking them off leaves the match. -/
theorem row_of_checks {o : Opcode} {w : Word} (h : ofField (opcField w) = some o) (hr : w &&& o.reservedBits = 0#32)
    (hn : o.takesNote = true → w.getLsbD 7 = false) : w &&& o.rowMask = o.rowMatch := by
  rw [word_eq h hr hn, BitVec.and_or_distrib_right, rowMatch_and_rowMask, BitVec.and_assoc, BitVec.not_and_self,
    BitVec.ofNat_eq_ofNat, BitVec.and_zero, BitVec.or_zero]

/-- R84 for every row: the words that match it are those that decode to its command. -/
theorem row_iff_decodeWord (o : Opcode) (w : Word) : w &&& o.rowMask = o.rowMatch ↔ decodeWord w = .ok (o.instr w) := by
  constructor
  · intro h
    obtain ⟨hopc, hr, hn⟩ := checks_of_row h
    exact decodeWord_ok hopc hr hn
  · intro h
    rcases decodeWord_cases w with ⟨-, herr⟩ | ⟨o', hopc, ⟨-, herr⟩ | ⟨-, -, -, herr⟩ | ⟨hr, hn, hok⟩⟩
    case inr.inr.inr =>
      obtain rfl : o' = o := eq_of_instr_eq (Except.ok.inj (hok.symm.trans h))
      exact row_of_checks hopc hr hn
    all_goals exact absurd (herr.symm.trans h) nofun

theorem eq_of_rows {o o' : Opcode} {w : Word} (h : w &&& o.rowMask = o.rowMatch) (h' : w &&& o'.rowMask = o'.rowMatch) :
    o = o' :=
  Option.some_inj.mp ((checks_of_row h).1.symm.trans (checks_of_row h').1)

end Opcode

/-! ### The answer of each check, and the word of a row's command -/

section checks
variable {w : Word} {o : Opcode}

theorem decodeWord_reservedOpcode (h : Opcode.ofField (opcField w) = none) : decodeWord w = .error .reservedOpcode := by
  rw [decodeWord, h]

theorem decodeWord_reservedOperand (h : Opcode.ofField (opcField w) = some o) (hr : w &&& o.reservedBits ≠ 0#32) :
    decodeWord w = .error .reservedOperand := by
  simp only [decodeWord, h, if_pos hr]

theorem decodeWord_noteRange (h : Opcode.ofField (opcField w) = some o) (hr : w &&& o.reservedBits = 0#32)
    (hn : o.takesNote = true) (h7 : w.getLsbD 7 = true) : decodeWord w = .error .noteRange := by
  simp [decodeWord, h, hr, hn, h7]

end checks

/-- The low bits of a word, in their places. -/
theorem setWidth_extractLsb'_zero (w : Word) {k : Nat} (hk : k ≤ 32) :
    (w.extractLsb' 0 k).setWidth 32 = w &&& BitVec.ofNat 32 (2 ^ k - 1) := by
  have hpow : 2 ^ k ≤ 2 ^ 32 := Nat.pow_le_pow_right (by decide) hk
  have hpos : 0 < 2 ^ k := Nat.two_pow_pos k
  apply BitVec.eq_of_toNat_eq
  rw [BitVec.toNat_setWidth_of_le hk, BitVec.extractLsb'_toNat, BitVec.toNat_and, BitVec.toNat_ofNat,
    Nat.mod_eq_of_lt (a := 2 ^ k - 1) (by omega), Nat.and_two_pow_sub_one_eq_mod, Nat.shiftRight_zero]

/-- A row's command keeps exactly the operand bits of the word it was taken from. -/
theorem encodeWord_instr (o : Opcode) (w : Word) : encodeWord (o.instr w) = some (o.rowMatch ||| (w &&& ~~~ o.rowMask)) := by
  cases o
  case noteOn | noteOff | setMvol | bip =>
    simp only [Opcode.instr, encodeWord, setWidth_extractLsb'_zero, Nat.reduceLeDiff]
    rfl
  case setFm =>
    rw [Opcode.instr, encodeWord, BitVec.extractLsb'_append_extractLsb'_eq_extractLsb' (Nat.zero_add 8).symm,
      setWidth_extractLsb'_zero w (by decide)]
    rfl
  all_goals simp [Opcode.instr, encodeWord, Opcode.rowMatch, Opcode.rowMask]

theorem encodeWord_instr_of_checks {w : Word} {o : Opcode} (h : Opcode.ofField (opcField w) = some o)
    (hr : w &&& o.reservedBits = 0#32) (hn : o.takesNote = true → w.getLsbD 7 = false) :
    encodeWord (o.instr w) = some w := by
  rw [encodeWord_instr, ← word_eq h hr hn]

end Sys2Proof

namespace Sys2Proof.Machine

/-! ### The obligations -/

/-- Settles O3: each row is a case of `Opcode.row_iff_decodeWord`, and the opcode of a word picks its row. -/
theorem wordIsACommandExactlyWhenItsRowMatches : Obligations.WordIsACommandExactlyWhenItsRowMatches := fun w =>
  ⟨Opcode.row_iff_decodeWord .nop w, Opcode.row_iff_decodeWord .init w, Opcode.row_iff_decodeWord .noteOn w,
    Opcode.row_iff_decodeWord .noteOff w, Opcode.row_iff_decodeWord .allOff w, Opcode.row_iff_decodeWord .setFm w,
    Opcode.row_iff_decodeWord .setMvol w, Opcode.row_iff_decodeWord .bip w, Opcode.row_iff_decodeWord .clrErr w,
    fun _ _ => Opcode.eq_of_rows⟩

/-- Settles O4: the opcode field is either reserved or names a row, whose checks are the rule's. -/
theorem decodingTakesTheFirstFailingCheck : Obligations.DecodingTakesTheFirstFailingCheck := by
  intro w
  simp only [← toNat_opcField]
  refine ⟨fun h => ?_, fun h hr => ?_, fun hn hr h7 => ?_, fun h hr h7 => ?_, fun e s he => ?_, rfl, rfl, rfl⟩
  · exact decodeWord_reservedOpcode (Opcode.ofField_eq_none.mpr h)
  · obtain ⟨o, ho⟩ := Opcode.exists_ofField h
    rw [← Opcode.reservedBits_of_ofField ho] at hr
    exact decodeWord_reservedOperand ho hr
  · obtain ⟨o, ho⟩ := Opcode.exists_ofField (f := opcField w) (by omega)
    rw [← Opcode.reservedBits_of_ofField ho] at hr
    exact decodeWord_noteRange ho hr ((Opcode.takesNote_of_ofField ho).mpr hn) h7
  · obtain ⟨o, ho⟩ := Opcode.exists_ofField h
    rw [← Opcode.reservedBits_of_ofField ho] at hr
    rw [← Opcode.takesNote_of_ofField ho, not_and, Bool.not_eq_true] at h7
    exact ⟨o.instr w, decodeWord_ok ho hr h7, encodeWord_instr_of_checks ho hr h7⟩
  · rw [he, runEvent_error]
    rfl

/-- Settles O5: the assembler and the decoder are run on each row. -/
theorem workedEncodingsOfTheTable : Obligations.WorkedEncodingsOfTheTable :=
  ⟨rfl, rfl, rfl, rfl, rfl, rfl, rfl, rfl, rfl, rfl, rfl, rfl, rfl, rfl, rfl, rfl⟩

end Sys2Proof.Machine

namespace Sys2Proof

/-! ## 40_voice_commands.md: the words of the commands (R112, R120, R131, R133) and of a note (R104) -/

namespace Opcode

/-- A row without operand bits has one word. -/
theorem decodeWord_eq_instr_iff {o : Opcode} (h : o.rowMask = BitVec.allOnes 32) (w : Word) :
    decodeWord w = .ok (o.instr w) ↔ w = o.rowMatch := by
  rw [← row_iff_decodeWord, h, BitVec.and_allOnes]

section noteWord
variable {o : Opcode} {n : Nat}

/-- The opcode of a row and a byte occupy different bits of the word. -/
theorem ofNat_rowMatch_add (o : Opcode) (hn : n ≤ 255) :
    BitVec.ofNat 32 (o.rowMatch.toNat + n) = o.rowMatch ||| (BitVec.ofNat 8 n).setWidth 32 := by
  have hdisj : (BitVec.ofNat 8 n).setWidth 32 &&& o.rowMatch = 0#32 := by
    have h := Laws.EncodingRow.or_and_mask o.rowMatch 0#32 (BitVec.ofNat 8 n) BitVec.zero_and (by cases o <;> decide)
    rwa [BitVec.zero_or] at h
  rw [BitVec.ofNat_add, BitVec.ofNat_toNat, BitVec.setWidth_eq, ← BitVec.setWidth_ofNat_of_le_of_lt (w := 8) (by decide) (by omega),
    BitVec.add_eq_or_of_and_eq_zero _ _ (by rwa [BitVec.and_comm])]

theorem ofField_noteWord (o : Opcode) (b : BitVec 8) :
    ofField (opcField (o.rowMatch ||| b.setWidth 32)) = some o := by
  rw [opcField_or o b (by decide), ofField_rowMatch]

/-- Every bit of a byte is an operand bit of a note command. -/
theorem noteWord_and_reservedBits (ho : o.takesNote = true) (b : BitVec 8) :
    (o.rowMatch ||| b.setWidth 32) &&& o.reservedBits = 0#32 := by
  have h := Laws.EncodingRow.or_and_mask 0x00FFFF00#32 0#32 b BitVec.zero_and (by decide)
  rw [BitVec.zero_or] at h
  rw [BitVec.and_or_distrib_right, rowMatch_and_reservedBits, BitVec.zero_or, reservedBits, if_pos ho, h]

theorem getLsbD_noteWord_seven (ho : o.takesNote = true) (hn : n ≤ 255) :
    (o.rowMatch ||| (BitVec.ofNat 8 n).setWidth 32).getLsbD 7 = decide (128 ≤ n) := by
  obtain ⟨-, hmatch⟩ := getLsbD_seven_of_takesNote ho
  have hbit : n / 2 ^ 7 % 2 = 1 ↔ 128 ≤ n := by omega
  rw [BitVec.getLsbD_or, hmatch, Bool.false_or, BitVec.getLsbD_setWidth, BitVec.getLsbD_ofNat,
    Nat.testBit_eq_decide_div_mod_eq, decide_eq_decide.mpr hbit]
  rfl

/-- Check 3 refuses a note above 127 (R104). -/
theorem decodeWord_note_above (ho : o.takesNote = true) (h : 128 ≤ n) (hn : n ≤ 255) :
    decodeWord (BitVec.ofNat 32 (o.rowMatch.toNat + n)) = .error .noteRange := by
  rw [ofNat_rowMatch_add o hn]
  exact decodeWord_noteRange (ofField_noteWord o _) (noteWord_and_reservedBits ho _)
    ho (by rw [getLsbD_noteWord_seven ho hn, decide_eq_true h])

theorem extractLsb'_noteWord (o : Opcode) (n : Nat) :
    (BitVec.ofNat 32 (o.rowMatch.toNat + n)).extractLsb' 0 7 = BitVec.ofNat 7 n := by
  have hmatch : BitVec.ofNat 7 o.rowMatch.toNat = 0#7 := by cases o <;> rfl
  rw [← BitVec.setWidth_eq_extractLsb' (by decide), BitVec.setWidth_ofNat_of_le (by decide), BitVec.ofNat_add, hmatch,
    BitVec.zero_add]

/-- A note of at most 127 passes every check. -/
theorem decodeWord_note_within (ho : o.takesNote = true) (h : n ≤ 127) :
    decodeWord (BitVec.ofNat 32 (o.rowMatch.toNat + n)) = .ok (o.instr (BitVec.ofNat 32 (o.rowMatch.toNat + n))) := by
  have h7 := getLsbD_noteWord_seven (n := n) ho (by omega)
  rw [decide_eq_false (by omega)] at h7
  rw [ofNat_rowMatch_add o (by omega)]
  exact decodeWord_ok (ofField_noteWord o _) (noteWord_and_reservedBits ho _) fun _ => h7

end noteWord

end Opcode
end Sys2Proof

namespace Sys2Proof.Machine

/-! ### The writers of `mvol` (R117) -/

/-- INIT and SET_MVOL write `mvol`; what every other operation answers has the `mvol` of its start. -/
theorem exec_mvol {i : Instr} {s t : State} (h : exec i s = .next t) :
    t.mvol = s.mvol ∨ i = .init ∨ i = .setMvol t.mvol := by
  rcases exec_eq_next h with ⟨-, rfl⟩ | ⟨rfl, -⟩ | ⟨-, rfl⟩ | ⟨n, v, -, -, -, rfl⟩ | ⟨n, -, -, rfl⟩ | ⟨-, rfl⟩ |
    ⟨hr, depth, -, rfl⟩ | ⟨l, rfl, rfl⟩ | ⟨d, -, rfl⟩ | ⟨-, rfl⟩ | ⟨-, rfl⟩ | ⟨S, -, -, rfl⟩
  all_goals simp

theorem runEvent_mvol {e : Except CmdErr Instr} {s t : State} (h : runEvent e s = .next t) :
    t.mvol = s.mvol ∨ e = .ok .init ∨ e = .ok (.setMvol t.mvol) := by
  cases e with
  | ok i => simpa using exec_mvol h
  | error r =>
    obtain rfl : s.raiseCmdError r = t := by simpa using h
    exact .inl (s.raiseCmdError_mvol r)

/-- The command of a cycle accounts for the value `m` of `mvol`: it is INIT, or the SET_MVOL of `m` (R117). -/
def CommandWritesMvol (c : PortCycle) (m : BitVec 4) : Prop :=
  c.cmdValid = true ∧ (decodeWord c.cmdData = .ok .init ∨ decodeWord c.cmdData = .ok (.setMvol m))

theorem commandWritesMvol_of_mem {c : PortCycle} {e : Except CmdErr Instr} {m : BitVec 4} (he : e ∈ decodeCycle c)
    (h : e = .ok .init ∨ e = .ok (.setMvol m)) : CommandWritesMvol c m := by
  obtain ⟨-, ⟨rfl, -⟩ | ⟨rfl, -⟩ | ⟨rfl, hvalid⟩⟩ := mem_decodeCycle.mp he
  case inl | inr.inl => simp at h
  case inr.inr => exact ⟨hvalid, h⟩

/-- The events of a cycle leave `mvol` alone, but for its command. -/
theorem runEvents_decodeCycle_mvol {c : PortCycle} {s t : State} (h : runEvents (decodeCycle c) s = .next t) :
    t.mvol = s.mvol ∨ CommandWritesMvol c t.mvol := by
  refine runEvents_induction (P := fun u => u.mvol = s.mvol ∨ CommandWritesMvol c u.mvol) ?_ (.inl rfl) h
  intro e he u v hu hv
  obtain hkeep | hwrite := runEvent_mvol hv
  · rwa [hkeep]
  · exact .inr (commandWritesMvol_of_mem he hwrite)

/-- Settles O23: a step that is no reset runs the events of its cycle. -/
theorem masterVolumeHasOnlyItsThreeWriters : Obligations.MasterVolumeHasOnlyItsThreeWriters := by
  intro s t h hne
  obtain ⟨-, ⟨hrst, -⟩ | ⟨-, hrun⟩⟩ := step_eq_next h
  · exact .inl hrst
  · exact .inr ((runEvents_decodeCycle_mvol hrun).resolve_left hne)

/-! ### What the read port shows of the reset values -/

theorem activeMask_of_free {vs : List Voice} (h : ∀ v ∈ vs, v.note = 0#8) : activeMask vs = 0 := by
  induction vs with
  | nil => rfl
  | cons v vs ih =>
    rw [List.forall_mem_cons] at h
    simp [activeMask, (Voice.active_eq_false v).mpr h.1, ih h.2]

theorem activeBits_of_free {s : State} (h : ∀ v ∈ s.voices, v.note = 0#8) : s.activeBits = 0#15 := by
  rw [State.activeBits, activeMask_of_free fun v hv => h v (List.mem_of_mem_take hv)]

/-- At the reset values STATUS shows nothing (R43, R55). -/
theorem statusWord_of_atReset {c : Config} {t : State} (h : Spec.AtReset c t) : statusWord t = 0#32 := by
  obtain ⟨herr, hcode⟩ := h.err
  simp [statusWord, State.bipActive, activeBits_of_free h.note, h.rr, h.bip.1, herr, hcode]

theorem outWord_of_atReset {c : Config} {t : State} (h : Spec.AtReset c t) (hcfg : t.cfg = c) (hl : c.Legal) :
    (outWord t).toNat = 2 ^ (c.outW - 1) := by
  obtain ⟨-, hlt⟩ := hl.outOffset
  rw [toNat_outWord (by rwa [h.out, hcfg]), h.out]

/-! ### INIT (R131) -/

theorem State.reinit_reinit (s : State) : s.reinit.reinit = s.reinit := rfl

/-- A reset cycle put before the inputs of a state leaves what INIT leaves. -/
theorem step_resetCycle {s : State} {c : PortCycle} (hl : s.cfg.Legal) (hc : c.rst = true) :
    step { s with inputs := c :: s.inputs } = .next s.reinit := by
  have hstep := step_of_inputs (s := { s with inputs := c :: s.inputs }) hl rfl
  exact hstep.trans (runCycle_of_rst _ hc)

/-- Settles O28: INIT and a reset cycle both leave `reinit`, whose reset values the read port shows. -/
theorem initReturnsToTheResetValues : Obligations.InitReturnsToTheResetValues := by
  refine ⟨Opcode.decodeWord_eq_instr_iff (o := .init) rfl, fun s hl => ?_⟩
  have hreset : Spec.AtReset s.cfg s.reinit := atReset_reinit hl
  refine ⟨s.reinit, exec_init s, s.reinit_cfg, hreset, ?_, fun c hc => step_resetCycle hl hc, fun k hk => ?_⟩
  · rw [exec_init, State.reinit_reinit]
  · refine ⟨statusWord_of_atReset hreset, BitVec.eq_of_toNat_eq ?_⟩
    exact (outWord_of_atReset hreset s.reinit_cfg hl).trans (by rw [hk]; rfl)

/-! ### NOP, NOTE_ON and NOTE_OFF (R120, R104, R109) -/

/-- Settles O29: a byte in the operand is a legal note exactly when its bit 7 is clear. -/
theorem noteZeroDoesNothingAndNotesAbove127AreIllegal : Obligations.NoteZeroDoesNothingAndNotesAbove127AreIllegal := by
  refine ⟨fun n h hn => ⟨?_, ?_⟩, fun n hn => ⟨?_, ?_⟩, fun s => ⟨exec_noteOn_zero s, exec_noteOff_zero s⟩⟩
  · exact Opcode.decodeWord_note_above (o := .noteOn) rfl h hn
  · exact Opcode.decodeWord_note_above (o := .noteOff) rfl h hn
  · rw [← Opcode.extractLsb'_noteWord .noteOn n]
    exact Opcode.decodeWord_note_within (o := .noteOn) rfl hn
  · rw [← Opcode.extractLsb'_noteWord .noteOff n]
    exact Opcode.decodeWord_note_within (o := .noteOff) rfl hn

/-- Settles O27: NOP has one word, and answers the state it is given. -/
theorem nopIsTheZeroWordAndChangesNothing : Obligations.NopIsTheZeroWordAndChangesNothing :=
  ⟨Opcode.decodeWord_eq_instr_iff (o := .nop) rfl, exec_nop⟩

/-- The holders of a 7-bit note are the slots with its number. -/
theorem note_eq_setWidth_iff (v : Voice) (n : BitVec 7) : v.note = n.setWidth 8 ↔ v.note.toNat = n.toNat := by
  rw [← BitVec.toNat_inj, BitVec.toNat_setWidth_of_le (by decide)]

theorem releaseNote_eq (n : BitVec 7) (v : Voice) : releaseNote n v = if v.note.toNat = n.toNat then
    { v with env := { v.env with state := .release }, modEnv := { v.modEnv with state := .release }, rel := true }
    else v :=
  if_congr (note_eq_setWidth_iff v n) rfl rfl

/-- Settles O34: `releaseNote` keeps `vel`, and picks the holders by their number. -/
theorem noteOffReleasesEveryHolder : Obligations.NoteOffReleasesEveryHolder := by
  intro s n hn
  rw [exec_noteOff hn, funext (releaseNote_eq n)]
  rfl

/-! ### ALL_OFF and CLR_ERR (R112, R133) -/

@[simp] theorem Voice.free_note (v : Voice) : v.free.note = 0#8 := rfl

theorem Voice.free_of_free {v : Voice} (h : v.note = 0#8) : v.free = v := by rw [Voice.free, ← h]

theorem contribution_of_free (c : Config) {v : Voice} (h : v.note = 0#8) : contribution c v = some 0 := by
  simp [contribution, Voice.active, h]

theorem voiceSum_of_free (c : Config) {vs : List Voice} (h : ∀ v ∈ vs, v.note = 0#8) : voiceSum c vs = some 0 := by
  rw [voiceSum_eq_sum (f := fun _ => 0) fun v hv => contribution_of_free c (h v hv)]
  simp

theorem map_eq_self {f : Voice → Voice} {vs : List Voice} (h : ∀ v ∈ vs, f v = v) : vs.map f = vs :=
  (List.map_congr_left h).trans (List.map_id' vs)

theorem exec_tick_of_free {s : State} (h : ∀ v ∈ s.voices, v.note = 0#8) : exec .tick s = .next s := by
  rw [exec_tick, map_eq_self fun v hv => tickVoice_of_free s.cfg v (h v hv)]
  rfl

/-- Settles O35: ALL_OFF frees every slot, and a free slot is neither advanced nor heard. -/
theorem allOffFreesEveryVoiceAndNothingElse : Obligations.AllOffFreesEveryVoiceAndNothingElse := by
  refine ⟨Opcode.decodeWord_eq_instr_iff (o := .allOff) rfl, fun s => ?_⟩
  have hfree : ∀ v ∈ (s.setVoices (s.voices.map Voice.free)).voices, v.note = 0#8 := by simp
  refine ⟨_, exec_allOff s, rfl, fun h => ?_, exec_tick_of_free hfree, voiceSum_of_free _ hfree⟩
  rw [map_eq_self fun v hv => Voice.free_of_free (h v hv)]
  rfl

/-- Settles O39: CLR_ERR has one word and is `clearErr`; the rule's example is run from the reset state. -/
theorem clrErrClearsTheErrorOnly : Obligations.ClrErrClearsTheErrorOnly :=
  ⟨Opcode.decodeWord_eq_instr_iff (o := .clrErr) rfl, exec_clrErr, _, _, rfl, rfl, rfl, rfl⟩

end Sys2Proof.Machine

namespace Sys2Proof.Machine

/-! ## 45_envelope_tick.md: the envelope (R141, R151) and TICK (R147) -/

/-! ### The arms of `advance` -/

section arms
variable {maxv : Nat} {r : EnvRates} {e : Env}

theorem advance_sustain (hst : e.state = .sustain) : advance maxv r e = e := by simp only [advance, hst]

theorem advance_idle (hst : e.state = .idle) : advance maxv r e = e := by simp only [advance, hst]

variable (hm : maxv ≤ 255) (hr : r.Legal maxv)
include hm hr

theorem advance_attack_of_le (hst : e.state = .attack) (h : maxv ≤ e.vel.toNat + r.a) :
    (advance maxv r e).state = .decay ∧ (advance maxv r e).vel.toNat = maxv := by
  simpa [hst, h, h.not_gt] using advance_spec hm hr.sustain e

theorem advance_attack_of_lt (hst : e.state = .attack) (h : e.vel.toNat + r.a < maxv) :
    (advance maxv r e).state = .attack ∧ (advance maxv r e).vel.toNat = e.vel.toNat + r.a := by
  simpa [hst, h, h.not_ge] using advance_spec hm hr.sustain e

theorem advance_decay_of_le (hst : e.state = .decay) (h : e.vel.toNat ≤ r.s + r.d) :
    (advance maxv r e).state = .sustain ∧ (advance maxv r e).vel.toNat = r.s := by
  simpa [hst, h, h.not_gt] using advance_spec hm hr.sustain e

theorem advance_decay_of_lt (hst : e.state = .decay) (h : r.s + r.d < e.vel.toNat) :
    (advance maxv r e).state = .decay ∧ (advance maxv r e).vel.toNat = e.vel.toNat - r.d := by
  simpa [hst, h, h.not_ge] using advance_spec hm hr.sustain e

theorem advance_release_of_le (hst : e.state = .release) (h : e.vel.toNat ≤ r.r) : advance maxv r e = ⟨.idle, 0#8⟩ := by
  simpa [hst, h, h.not_gt] using advance_spec hm hr.sustain e

theorem advance_release_of_lt (hst : e.state = .release) (h : r.r < e.vel.toNat) :
    (advance maxv r e).state = .release ∧ (advance maxv r e).vel.toNat = e.vel.toNat - r.r := by
  simpa [hst, h, h.not_ge] using advance_spec hm hr.sustain e

end arms

/-- Settles O40: the conditions of the arms on integers are those of the arm lemmas on naturals. -/
theorem envelopeAdvanceFollowsItsArms : Obligations.EnvelopeAdvanceFollowsItsArms := by
  intro maxv r e hm hr
  refine ⟨advance_attack_of_le hm hr, advance_attack_of_lt hm hr, fun hst h => ?_, fun hst h => ?_, advance_sustain,
    fun hst h => ?_, fun hst h => ?_, advance_idle⟩
  · exact advance_decay_of_le hm hr hst (by omega)
  · obtain ⟨hstate, hvel⟩ := advance_decay_of_lt hm hr hst (by omega)
    exact ⟨hstate, by omega⟩
  · exact advance_release_of_le hm hr hst (by omega)
  · obtain ⟨hstate, hvel⟩ := advance_release_of_lt hm hr hst (by omega)
    exact ⟨hstate, by omega⟩

/-! ### The trajectory -/

/-- `ceilDiv x y` is the first count of `y`s to reach `x`. -/
theorem ceilDiv_le_iff {x y k : Nat} (hy : 1 ≤ y) : Spec.ceilDiv x y ≤ k ↔ x ≤ k * y := by
  rw [mul_comm]
  exact ceilDiv_le_iff_le_mul hy

theorem lt_ceilDiv_iff {x y k : Nat} (hy : 1 ≤ y) : k < Spec.ceilDiv x y ↔ k * y < x := by
  rw [← not_le, ceilDiv_le_iff hy, not_le]

section trajectory
variable {maxv : Nat} {r : EnvRates} (hm : maxv ≤ 255) (hr : r.Legal maxv)
include hm hr

theorem iterate_advance_attack {k : Nat} (h : k * r.a < maxv) :
    ((advance maxv r)^[k] ⟨.attack, 0#8⟩).state = .attack ∧ ((advance maxv r)^[k] ⟨.attack, 0#8⟩).vel.toNat = k * r.a := by
  induction k with
  | zero => simp
  | succ k ih =>
    rw [Nat.add_one_mul] at h ⊢
    obtain ⟨hstate, hv⟩ := ih (by omega)
    rw [Function.iterate_succ_apply', ← hv]
    exact advance_attack_of_lt hm hr hstate (by omega)

/-- The first tick that would reach MAXV enters Decay. -/
theorem iterate_advance_attack_end (hpos : 0 < maxv) :
    ((advance maxv r)^[Spec.ceilDiv maxv r.a] ⟨.attack, 0#8⟩).state = .decay ∧
      ((advance maxv r)^[Spec.ceilDiv maxv r.a] ⟨.attack, 0#8⟩).vel.toNat = maxv := by
  have ha := hr.attack.1
  obtain ⟨k, hk⟩ : ∃ k, Spec.ceilDiv maxv r.a = k + 1 :=
    Nat.exists_eq_add_one.mpr ((lt_ceilDiv_iff ha).mpr (by omega))
  have hlt : k * r.a < maxv := (lt_ceilDiv_iff ha).mp (by omega)
  have hge : maxv ≤ (k + 1) * r.a := (ceilDiv_le_iff ha).mp hk.le
  obtain ⟨hstate, hv⟩ := iterate_advance_attack hm hr hlt
  rw [hk, Function.iterate_succ_apply']
  exact advance_attack_of_le hm hr hstate (by rwa [hv, ← Nat.add_one_mul])

theorem iterate_advance_decay {e : Env} (hst : e.state = .decay) {j : Nat} (h : j = 0 ∨ j * r.d < e.vel.toNat - r.s) :
    ((advance maxv r)^[j] e).state = .decay ∧ ((advance maxv r)^[j] e).vel.toNat = e.vel.toNat - j * r.d := by
  induction j with
  | zero => simp [hst]
  | succ j ih =>
    rw [Nat.add_one_mul] at h ⊢
    obtain ⟨hstate, hv⟩ := ih (by omega)
    rw [Function.iterate_succ_apply', ← Nat.sub_sub, ← hv]
    exact advance_decay_of_lt hm hr hstate (by omega)

/-- The first tick that would reach the sustain level enters Sustain; there is one even where Decay starts at it. -/
theorem iterate_advance_decay_end {e : Env} (hst : e.state = .decay) :
    ((advance maxv r)^[max 1 (Spec.ceilDiv (e.vel.toNat - r.s) r.d)] e).state = .sustain ∧
      ((advance maxv r)^[max 1 (Spec.ceilDiv (e.vel.toNat - r.s) r.d)] e).vel.toNat = r.s := by
  have hd := hr.decay.1
  obtain ⟨j, hj⟩ : ∃ j, max 1 (Spec.ceilDiv (e.vel.toNat - r.s) r.d) = j + 1 := Nat.exists_eq_add_one.mpr (by omega)
  have hlt : j = 0 ∨ j * r.d < e.vel.toNat - r.s := by rw [← lt_ceilDiv_iff hd]; omega
  have hge : e.vel.toNat - r.s ≤ (j + 1) * r.d := (ceilDiv_le_iff hd).mp (by omega)
  obtain ⟨hstate, hv⟩ := iterate_advance_decay hm hr hst hlt
  rw [Nat.add_one_mul] at hge
  rw [hj, Function.iterate_succ_apply']
  exact advance_decay_of_le hm hr hstate (by omega)

end trajectory

/-- Settles O41: the ramp of Attack, then the ramp of Decay from where it ends, then Sustain, which `advance` keeps. -/
theorem envelopeTrajectoryFromAttackToSustain : Obligations.EnvelopeTrajectoryFromAttackToSustain := by
  intro maxv r hmaxv hr
  have hm : maxv ≤ 255 := by omega
  obtain ⟨hdecay, hfull⟩ := iterate_advance_attack_end hm hr (by omega)
  obtain ⟨hsustain, hlevel⟩ := iterate_advance_decay_end hm hr hdecay
  rw [hfull, ← Function.iterate_add_apply, add_comm] at hsustain hlevel
  refine ⟨fun k hk => ?_, fun j hj => ?_, fun j => ?_⟩
  · exact iterate_advance_attack hm hr ((lt_ceilDiv_iff hr.attack.1).mp hk)
  · have hj' : j = 0 ∨ j * r.d < maxv - r.s := by rw [← lt_ceilDiv_iff hr.decay.1]; omega
    rw [add_comm, Function.iterate_add_apply]
    simpa only [hfull] using iterate_advance_decay hm hr hdecay (hfull.symm ▸ hj')
  · rw [add_comm, Function.iterate_add_apply, Function.iterate_fixed (advance_sustain hsustain)]
    exact ⟨hsustain, hlevel⟩

/-! ### TICK -/

theorem Voice.retireIdle_eq (v : Voice) :
    v.retireIdle = { v with note := if v.env.state = .idle then 0#8 else v.note } := by
  rcases retireIdle_cases v with ⟨h, heq⟩ | ⟨h, heq⟩
  · rw [heq, if_pos h, Voice.free]
  · rw [heq, if_neg h]

theorem levelAfter_eq (c : Config) (l : BitVec 8) : levelAfter c l = BitVec.ofNat 8 (l.toNat - c.wtDecay) := by
  rw [← toNat_levelAfter, BitVec.ofNat_toNat, BitVec.setWidth_eq]

theorem levelAfter_eq_zero_iff (c : Config) (l : BitVec 8) : levelAfter c l = 0#8 ↔ l.toNat - c.wtDecay = 0 := by
  rw [← BitVec.toNat_inj, toNat_levelAfter, BitVec.toNat_zero]

/-- A wavetable slot in TICK, with `max(0, level - WT_DECAY)` as a subtraction of naturals. -/
theorem tickLevel_eq (c : Config) (v : Voice) : tickLevel c v =
    if v.rel then { v with level := BitVec.ofNat 8 (v.level.toNat - c.wtDecay),
                           note := if v.level.toNat - c.wtDecay = 0 then 0#8 else v.note }
    else v := by
  refine if_congr Iff.rfl ?_ rfl
  rw [← levelAfter_eq]
  by_cases hz : v.level.toNat - c.wtDecay = 0
  · rw [if_pos hz]
    exact if_pos ((levelAfter_eq_zero_iff c v.level).mpr hz)
  · rw [if_neg hz]
    exact if_neg (mt (levelAfter_eq_zero_iff c v.level).mp hz)

/-- A slot in TICK follows the pseudocode of R147. -/
theorem tickVoice_eq_tickSlot (c : Config) (v : Voice) : tickVoice c v = Spec.tickSlot c v := by
  by_cases hv : v.note = 0#8
  · rw [tickVoice_of_free c v hv, Spec.tickSlot, if_pos hv]
  rw [tickVoice, if_pos (v.active_iff.mpr hv), Spec.tickSlot, if_neg hv]
  cases c.voiceKind with
  | sine | fm => exact Voice.retireIdle_eq _
  | wavetable => exact tickLevel_eq c v

/-- Settles O42: the events of the cycle are its strobe's, and TICK maps the slots and writes no other register. -/
theorem tickAdvancesActiveVoicesOnly : Obligations.TickAdvancesActiveVoicesOnly := by
  refine ⟨fun c hrst hsample hcmd => ?_, fun s => ?_⟩
  · simp [decodeCycle, hrst, hsample, hcmd]
  · rw [exec_tick, funext (tickVoice_eq_tickSlot s.cfg)]
    rfl

end Sys2Proof.Machine

namespace Sys2Proof.Machine

/-! ## 46_sample_datapath.md: SAMPLE (R180), the attenuation (R176) and the bounds (R181) -/

/-! ### The attenuation -/

section shift
variable (T : Int) (k : Nat)

theorem asr_shift_zero : asr T 0 = T := by rw [asr_eq_div, pow_zero, Int.ediv_one]

theorem asr_succ : asr T (k + 1) = asr T k / 2 := by rw [← asr_asr, asr_eq_div _ 1, pow_one]

theorem asr_nonneg_iff : 0 ≤ asr T k ↔ 0 ≤ T := by
  rw [asr_eq_div, Int.ediv_nonneg_iff_of_pos (by positivity)]

/-- A shift is the floor of the quotient. -/
theorem asr_floor : 2 ^ k * asr T k ≤ T ∧ T < 2 ^ k * (asr T k + 1) := by
  have hpos : (0 : Int) < 2 ^ k := by positivity
  rw [asr_eq_div, mul_add_one]
  exact ⟨Int.mul_ediv_self_le hpos.ne', Int.lt_mul_ediv_self_add hpos⟩

theorem asr_eq_neg_one (hneg : T < 0) (h : T.natAbs ≤ 2 ^ k) : asr T k = -1 := by
  have hle : (T.natAbs : Int) ≤ 2 ^ k := by exact_mod_cast h
  rw [asr_eq_div]
  exact Int.ediv_eq_neg_one_of_neg_of_le hneg (by omega)

end shift

/-- Settles O47: one more shift is a floored halving, and a shift keeps the sign. -/
theorem attenuationRoundsDownAndIsMonotone : Obligations.AttenuationRoundsDownAndIsMonotone := by
  refine ⟨fun _ _ => rfl, fun T => ⟨asr_shift_zero T, fun k => ?_⟩⟩
  have hhalf := asr_succ T k
  have hsign := asr_nonneg_iff T k
  exact ⟨asr_floor T k, by omega, by omega, by omega, by omega, by omega, by omega, asr_eq_neg_one T k⟩

/-! ### The bounds of the products and sums -/

/-- A signed byte times an amplitude of at most `m`. -/
theorem mul_amp_mem {x : Int} (hx : -128 ≤ x ∧ x ≤ 127) {a m : Nat} (ha : a ≤ m) : -128 * m ≤ x * a ∧ x * a ≤ 127 * m := by
  obtain ⟨hlo, hhi⟩ := hx
  constructor <;> nlinarith

/-- A floor division undoes the scaling of the bounds of its operand. -/
theorem ediv_mem {x d lo hi : Int} (hd : 0 < d) (h : lo * d ≤ x ∧ x ≤ hi * d) : lo ≤ x / d ∧ x / d ≤ hi :=
  ⟨Int.le_ediv_of_mul_le hd h.1, Int.ediv_le_of_le_mul hd h.2⟩

theorem sineRead_mul_mem (c : Config) (i l : BitVec 8) :
    -32640 ≤ sineRead c i * l.toNat ∧ sineRead c i * l.toNat ≤ 32385 := by
  have := mul_amp_mem (sineRead_mem c i) (Nat.le_of_lt_succ l.isLt)
  omega

theorem fmOffset_mem (c : Config) (v : Voice) : -32640 ≤ fmOffset c v ∧ fmOffset c v ≤ 32385 :=
  asr_mem _ (by norm_num) (by norm_num) (sineRead_mul_mem c _ _)

theorem bipTone_mem (s : State) : -128 ≤ bipTone s ∧ bipTone s ≤ 127 := by
  unfold bipTone
  split
  · exact asr_mem _ (by norm_num) (by norm_num) (sineRead_mem _ _)
  · omega

section bounds
variable {c : Config} (hl : c.Legal)
include hl

theorem two_pow_envShift : 2 ^ c.envShift = c.maxv + 1 := by
  rcases hl.envShift with ⟨hs, hm⟩ | ⟨hs, hm⟩ <;> rw [hs, hm] <;> norm_num

/-- Scaling by an amplitude of at most MAXV keeps a value in a signed byte (R161, R163). -/
theorem scaled_mem {x : Int} (hx : -128 ≤ x ∧ x ≤ 127) {amp : BitVec 8} (ha : amp.toNat ≤ c.maxv) :
    -128 ≤ scaled c x amp ∧ scaled c x amp ≤ 127 := by
  have hpow : (2 : Int) ^ c.envShift = c.maxv + 1 := by exact_mod_cast two_pow_envShift hl
  obtain ⟨hlo, hhi⟩ := mul_amp_mem hx ha
  rw [scaled, asr_eq_div, hpow]
  exact ediv_mem (by omega) (by omega)

theorem contribution_mem {v : Voice} (hv : VoiceInv c v) {x : Int} (h : contribution c v = some x) : -128 ≤ x ∧ x ≤ 127 := by
  by_cases hnote : v.note = 0#8
  · rw [contribution_of_free c hnote] at h
    cases h
    omega
  rw [contribution, if_pos (v.active_iff.mpr hnote)] at h
  split at h
  case h_1 | h_2 =>
    cases h
    exact scaled_mem hl (sineRead_mem c _) hv.velLe.1
  case h_3 =>
    obtain ⟨b, hb, rfl⟩ := Option.map_eq_some_iff.mp h
    exact scaled_mem hl (wtRead_mem hb) hv.levelLe

theorem voiceSum_mem {vs : List Voice} (hvs : ∀ v ∈ vs, VoiceInv c v) {S : Int} (h : voiceSum c vs = some S) :
    vs.length * (-128) ≤ S ∧ S ≤ vs.length * 127 := by
  induction vs generalizing S with
  | nil =>
    cases h
    simp
  | cons v vs ih =>
    rw [voiceSum_cons] at h
    obtain ⟨x, hx, h⟩ := Option.bind_eq_some_iff.mp h
    obtain ⟨S', hS', rfl⟩ := Option.map_eq_some_iff.mp h
    have hhead := contribution_mem hl (hvs v List.mem_cons_self) hx
    have htail := ih (fun u hu => hvs u (List.mem_cons_of_mem v hu)) hS'
    rw [List.length_cons]
    omega

end bounds

/-- The mean of the voices lies where each of them does (R167). -/
theorem mean_mem {S : Int} {n : Nat} (hn : 1 ≤ n) (h : n * (-128) ≤ S ∧ S ≤ n * 127) :
    -128 ≤ fdiv S n ∧ fdiv S n ≤ 127 := by
  rw [fdiv_eq_div]
  exact ediv_mem (by omega) (by omega)

/-- Settles O49: the mix total lies in −256 to 254, and neither the shift nor the offset takes it far from there. -/
theorem everyIntermediateFitsSixteenBits : Obligations.EveryIntermediateFitsSixteenBits := by
  intro s hs
  refine ⟨fun x l => ?_, fun v => ?_, fun S hS => ?_⟩
  · have := sineRead_mul_mem s.cfg x l
    omega
  · have := fmOffset_mem s.cfg v
    omega
  · have hn := hs.legal.nVoices
    have hoffset := hs.legal.outOffset.1
    have hsum := voiceSum_mem hs.legal hs.voices hS
    rw [hs.slots] at hsum
    have hmean := mean_mem hn.1 hsum
    have hbip := bipTone_mem s
    have hatt : -256 ≤ attenuated s S ∧ attenuated s S ≤ 254 :=
      asr_mem _ (by norm_num) (by norm_num) (by omega)
    refine ⟨by omega, ?_⟩
    simp only [List.forall_mem_cons, List.not_mem_nil, false_implies, implies_true, and_true]
    omega

/-! ### SAMPLE is its pseudocode -/

/-- The value stored in `out` is the rule's: a legal OUT_W has at most 10 bits, so no bit of it is lost (R177). -/
theorem toNat_outputLevel {c : Config} (hl : c.Legal) (ma : Int) : ((outputLevel c ma).toNat : Int) = Spec.level c ma := by
  have hoffset : ((c.outOffset : Nat) : Int) = 2 ^ (c.outW - 1) := by rw [Config.outOffset]; norm_cast
  have hwidth : 0 < (2 : Int) ^ c.outW ∧ (2 : Int) ^ c.outW ≤ 2 ^ 10 := by
    rcases hl.outW with hw | hw | hw <;> rw [hw] <;> norm_num
  rw [outputLevel, Spec.level, hoffset]
  cases c.outOverflow with
  | saturate =>
    simp only [clamp]
    exact toNat_ofInt_of_fits (by omega) (by omega)
  | wrap =>
    have hmod := Int.emod_lt_of_pos (ma + 2 ^ (c.outW - 1)) hwidth.1
    exact toNat_ofInt_of_fits (Int.emod_nonneg _ hwidth.1.ne') (hmod.trans_le hwidth.2)

theorem bipTone_eq (s : State) : bipTone s =
    if s.bipCount = 0#16 then 0 else sineRead s.cfg (phaseIndex s.bipPhase) / 2 ^ s.cfg.bipShift := by
  rw [bipTone, asr_eq_div]
  by_cases h : s.bipCount = 0#16 <;> simp [h]

theorem attenuated_eq_total (s : State) :
    attenuated s (s.voices.map (Spec.contrib s.cfg)).sum = Spec.total s / 2 ^ s.mvol.toNat := by
  rw [attenuated, asr_eq_div, fdiv_eq_div, bipTone_eq]
  rfl

/-- A register of `w` bits keeps an integer modulo 2^w only. -/
theorem ofInt_emod_two_pow (w : Nat) (x : Int) : BitVec.ofInt w (x % 2 ^ w) = BitVec.ofInt w x := by
  apply BitVec.eq_of_toNat_eq
  rw [BitVec.toNat_ofInt, BitVec.toNat_ofInt]
  norm_cast
  rw [Int.emod_emod]

/-- The model's index of an FM carrier, with the sum reduced modulo 2^16 as the pseudocode writes it (R162). -/
theorem fmIndex_eq (c : Config) (v : Voice) :
    fmIndex c v = phaseIndex (BitVec.ofInt 16 ((v.phase.toNat + fmOffset c v) % 2 ^ 16)) := by
  rw [fmIndex, ofInt_emod_two_pow]

theorem wtRead_of_lt {c : Config} {a : Nat} (h : a < c.wtLen) : wtRead c a = some (Memory.read c.wtData a).toInt := if_pos h

/-- A voice whose wavetable read is in range contributes what the pseudocode says. -/
theorem contribution_eq_contrib {c : Config} {v : Voice}
    (h : c.voiceKind = .wavetable → v.note ≠ 0#8 → v.samplePos.toNat / 2 ^ 8 < c.wtLen) :
    contribution c v = some (Spec.contrib c v) := by
  by_cases hnote : v.note = 0#8
  · rw [contribution_of_free c hnote, Spec.contrib, if_pos hnote]
  rw [contribution, if_pos (v.active_iff.mpr hnote), Spec.contrib, if_neg hnote]
  cases hk : c.voiceKind with
  | sine => simp only [scaled, asr_eq_div, phaseIndex]
  | fm => simp only [scaled, fmIndex_eq, fmOffset, asr_eq_div, phaseIndex]
  | wavetable => simp only [toNat_posByte, wtRead_of_lt (h hk hnote), Option.map_some, scaled, asr_eq_div]

theorem voiceSum_eq_contrib {s : State} (h : Spec.Readable s) :
    voiceSum s.cfg s.voices = some (s.voices.map (Spec.contrib s.cfg)).sum :=
  voiceSum_eq_sum fun v hv => contribution_eq_contrib fun hk => h hk v hv

/-- A register's sum as the pseudocode stores it. -/
theorem add_eq_ofNat {w : Nat} (x y : BitVec w) : x + y = BitVec.ofNat w ((x.toNat + y.toNat) % 2 ^ w) := by
  rw [← BitVec.toNat_add, BitVec.ofNat_toNat, BitVec.setWidth_eq]

/-- An integer position as the pseudocode stores it: the fraction is 0. -/
theorem append_zero_eq_ofNat (x : BitVec 24) : x ++ 0#8 = BitVec.ofNat 32 (x.toNat * 2 ^ 8) := by
  apply BitVec.eq_of_toNat_eq
  rw [BitVec.toNat_append, ← Nat.shiftLeft_add_eq_or_of_lt (by simp), Nat.shiftLeft_eq, BitVec.toNat_ofNat,
    BitVec.toNat_ofNat]
  have := x.isLt
  omega

/-- The cursor of a wavetable voice follows the pseudocode of R164. -/
theorem loopAdvance_eq (v : Voice) : loopAdvance v = BitVec.ofNat 32
    (if (v.samplePos.toNat + v.sampleStep.toNat) % 2 ^ 32 / 2 ^ 8 ≥ v.loopEnd.toNat then v.loopStart.toNat * 2 ^ 8
      else (v.samplePos.toNat + v.sampleStep.toNat) % 2 ^ 32) := by
  rw [apply_ite (BitVec.ofNat 32), ← add_eq_ofNat, ← append_zero_eq_ofNat, ← BitVec.toNat_add, ← toNat_posByte]
  rfl

/-- A slot in SAMPLE follows the pseudocode of R180. -/
theorem sampleVoice_eq_sampleSlot (c : Config) (v : Voice) : sampleVoice c v = Spec.sampleSlot c v := by
  by_cases hnote : v.note = 0#8
  · rw [sampleVoice_of_free c v hnote, Spec.sampleSlot, if_pos hnote]
  rw [sampleVoice, if_pos (v.active_iff.mpr hnote), Spec.sampleSlot, if_neg hnote]
  cases c.voiceKind with
  | sine | fm => simp only [add_eq_ofNat]
  | wavetable => simp only [loopAdvance_eq]

theorem toNat_stepBip_bipCount (s : State) : s.stepBip.bipCount.toNat = s.bipCount.toNat - 1 := by
  rw [stepBip_bipCount]
  split
  case isTrue h => rw [h]; rfl
  case isFalse h => bv_omega

theorem toNat_stepBip_bipPhase (s : State) : s.stepBip.bipPhase.toNat =
    if s.bipCount = 0#16 then s.bipPhase.toNat else (s.bipPhase.toNat + s.cfg.bipStep) % 2 ^ 16 := by
  rw [stepBip_bipPhase, apply_ite BitVec.toNat, BitVec.toNat_add, BitVec.toNat_ofNat, Nat.add_mod_mod]

/-- Settles O45: the voice sum, the attenuated mix, the slots and the bip are each the pseudocode's. -/
theorem sampleComputesTheWholeMix : Obligations.SampleComputesTheWholeMix := by
  intro s hl hread
  refine ⟨_, exec_sample (voiceSum_eq_contrib hread), ?_, toNat_stepBip_bipCount s, toNat_stepBip_bipPhase s, ?_⟩
  · rw [← attenuated_eq_total]
    exact toNat_outputLevel hl _
  · rw [funext (sampleVoice_eq_sampleSlot s.cfg), stepBip_eq]
    split <;> rfl

end Sys2Proof.Machine

namespace Sys2Proof.Machine

/-! ## 60_exceptions.md: the command error (R201) and the full voice pool (R213) -/

/-! ### What a command error writes -/

section commandError
variable (s : State) (r : CmdErr)

/-- The first error's code stays, so both cases of R201 are one write of `err` and `err_code`. -/
theorem raiseCmdError_eq_setErr : s.raiseCmdError r = s.setErr true (if s.err then s.errCode else r.code) := by
  rw [State.raiseCmdError]
  split
  case isTrue herr => rw [← herr]; rfl
  case isFalse => rfl

theorem raiseCmdError_of_err (herr : s.err = true) : s.raiseCmdError r = s := if_pos herr

/-- STATUS, at address 1, is the only word that shows `err` and `err_code` (R41, R43). -/
theorem readPort_setErr (x : Bool) (y : BitVec 4) {a : BitVec 8} (ha : a ≠ 1) :
    readPort (s.setErr x y) a = readPort s a := by
  unfold readPort
  split
  case h_2 h => exact absurd (BitVec.eq_of_toNat_eq h) ha
  all_goals rfl

end commandError

/-! ### What clears a command error -/

/-- Of the operations only CLR_ERR and INIT write `err` and `err_code`. -/
theorem exec_err {i : Instr} {s t : State} (h : exec i s = .next t) :
    (t.err = s.err ∧ t.errCode = s.errCode) ∨ i = .clrErr ∨ i = .init := by
  rcases exec_eq_next h with ⟨-, rfl⟩ | ⟨rfl, -⟩ | ⟨-, rfl⟩ | ⟨n, v, -, -, -, rfl⟩ | ⟨n, -, -, rfl⟩ | ⟨-, rfl⟩ |
    ⟨hr, depth, -, rfl⟩ | ⟨l, -, rfl⟩ | ⟨d, -, rfl⟩ | ⟨rfl, -⟩ | ⟨-, rfl⟩ | ⟨S, -, -, rfl⟩
  all_goals simp

/-- A second error keeps the first one's code, and so does every event but the two that clear it. -/
theorem runEvent_keeps_err {e : Except CmdErr Instr} {s t : State} (herr : s.err = true) (h : runEvent e s = .next t) :
    (t.err = true ∧ t.errCode = s.errCode) ∨ e = .ok .clrErr ∨ e = .ok .init := by
  cases e with
  | ok i => simpa [herr] using exec_err h
  | error r =>
    obtain rfl : s = t := by simpa [raiseCmdError_of_err s r herr] using h
    exact .inl ⟨herr, rfl⟩

/-- Events keep the error unless CLR_ERR or INIT is among them. -/
theorem runEvents_keeps_err {es : List (Except CmdErr Instr)} {s t : State} (herr : s.err = true)
    (h : runEvents es s = .next t) :
    (t.err = true ∧ t.errCode = s.errCode) ∨ .ok .clrErr ∈ es ∨ .ok .init ∈ es := by
  refine runEvents_induction
    (P := fun u => (u.err = true ∧ u.errCode = s.errCode) ∨ .ok .clrErr ∈ es ∨ .ok .init ∈ es) ?_ (.inl ⟨herr, rfl⟩) h
  intro e he u v hu hv
  obtain ⟨hflag, hcode⟩ | hclear := hu
  · rw [← hcode]
    obtain hkeep | rfl | rfl := runEvent_keeps_err hflag hv
    · exact .inl hkeep
    · exact .inr (.inl he)
    · exact .inr (.inr he)
  · exact .inr hclear

/-- An operation that is no strobe comes from the command port. -/
theorem decodeWord_of_mem_decodeCycle {c : PortCycle} {i : Instr} (hsample : i ≠ .sample) (htick : i ≠ .tick)
    (h : .ok i ∈ decodeCycle c) : c.cmdValid = true ∧ decodeWord c.cmdData = .ok i := by
  obtain ⟨-, ⟨hi, -⟩ | ⟨hi, -⟩ | ⟨hword, hvalid⟩⟩ := mem_decodeCycle.mp h
  · exact absurd (Except.ok.inj hi) hsample
  · exact absurd (Except.ok.inj hi) htick
  · exact ⟨hvalid, hword.symm⟩

/-- Settles O13: an error is one write of `err` and `err_code`, and only a cycle with a clearing event loses it. -/
theorem commandErrorIsStickyAndWritesNothingElse : Obligations.CommandErrorIsStickyAndWritesNothingElse := by
  refine ⟨fun w r s hw => ?_, fun s t herr h => ?_⟩
  · refine ⟨s.raiseCmdError r, by rw [hw, runEvent_error], s.raiseCmdError_err r, fun hclear => ?_,
      raiseCmdError_of_err s r, ?_, fun a ha => ?_, s.raiseCmdError_out r, s.raiseCmdError_seqTick r⟩
    · rw [s.raiseCmdError_errCode r, hclear]
      rfl
    · rw [raiseCmdError_eq_setErr]
      rfl
    · rw [raiseCmdError_eq_setErr, readPort_setErr s _ _ ha]
  · obtain ⟨-, ⟨hrst, -⟩ | ⟨-, hrun⟩⟩ := step_eq_next h
    · exact .inr (.inl hrst)
    · obtain hkeep | hclr | hinit := runEvents_keeps_err (s := s.beginCycle) herr hrun
      · exact .inl hkeep
      · exact .inr (.inr ((decodeWord_of_mem_decodeCycle (by decide) (by decide) hclr).imp_right .inl))
      · exact .inr (.inr ((decodeWord_of_mem_decodeCycle (by decide) (by decide) hinit).imp_right .inr))

/-! ### The slot choice in a full pool (R102) -/

section fullPool
variable {s : State} (hfull : ∀ v ∈ s.voices, v.note ≠ 0#8)
include hfull

theorem slotFor_of_full : slotFor s = s.rr.toNat := by
  rw [slotFor, firstFree_none.mpr hfull, Option.getD_none]

theorem rrAfter_of_full : rrAfter s = nextRr s := by
  rw [rrAfter, firstFree_none.mpr hfull]

end fullPool

theorem startNote_note (s : State) (n : BitVec 7) (v : Voice) : (startNote s n v).note = n.setWidth 8 := rfl

theorem toNat_nextRr {s : State} (hl : s.cfg.Legal) : (nextRr s).toNat = (s.rr.toNat + 1) % s.cfg.nVoices := by
  obtain ⟨hpos, hle⟩ := hl.nVoices
  have hlt : (s.rr.toNat + 1) % s.cfg.nVoices < s.cfg.nVoices := Nat.mod_lt _ hpos
  rw [nextRr, BitVec.toNat_ofNat, Nat.mod_eq_of_lt (by omega)]

/-- Settles O32: the pointer of a sound state names a slot, so the steal at `rr` completes. -/
theorem fullPoolIsNoError : Obligations.FullPoolIsNoError := by
  intro s n hs hn hfull
  have hrr : s.rr.toNat < s.voices.length := hs.slots ▸ hs.rrLt
  have hslot : s.voices[slotFor s]? = some s.voices[s.rr.toNat] := by
    rw [slotFor_of_full hfull, List.getElem?_eq_getElem hrr]
  refine ⟨_, exec_noteOn hn hslot, ⟨startNote s n s.voices[s.rr.toNat], ?_, startNote_note s n _⟩, fun v hv => ?_,
    List.length_set, ?_, rfl, rfl, rfl, rfl⟩
  · rw [slotFor_of_full hfull]
    exact List.getElem?_set_self hrr
  · obtain hold | rfl := List.mem_or_eq_of_mem_set hv
    · exact hfull v hold
    · exact setWidth_note_ne_zero hn
  · rw [← toNat_nextRr hs.legal, ← rrAfter_of_full hfull]
    rfl

end Sys2Proof.Machine

namespace Sys2Proof

/-! ## 30_encoding.md: decode and encode invert each other (R84, R85, R87) -/

theorem append_inj {m n : Nat} {a a' : BitVec m} {b b' : BitVec n} (h : a ++ b = a' ++ b') : a = a' ∧ b = b' := by
  refine ⟨?_, ?_⟩
  · rw [← BitVec.extractLsb'_append_eq_left (a := a) (b := b), h, BitVec.extractLsb'_append_eq_left]
  · rw [← BitVec.extractLsb'_append_eq_right (a := a) (b := b), h, BitVec.extractLsb'_append_eq_right]

theorem toNat_append_byte {k : Nat} (x : BitVec k) (b : Byte) : (x ++ b).toNat = x.toNat * 256 + b.toNat := by
  rw [BitVec.toNat_append, ← Nat.shiftLeft_add_eq_or_of_lt b.isLt, Nat.shiftLeft_eq]

/-- The operand bits of the SET_FM word give the two operands back. -/
theorem instr_setFm (hr : BitVec 8) (depth : BitVec 4) :
    Opcode.setFm.instr (Opcode.setFm.rowMatch ||| (depth ++ hr).setWidth 32) = .setFm hr depth := by
  have hboth := extract_or .setFm (depth ++ hr) (by decide) rfl
  rw [← BitVec.extractLsb'_append_extractLsb'_eq_extractLsb' (Nat.zero_add 8).symm] at hboth
  obtain ⟨hdepth, hhr⟩ := append_inj hboth
  rw [Opcode.instr, hdepth, hhr]

/-- A word with the match of a row and an operand in the row's variable bits decodes to the row's command. -/
theorem decodeWord_rowMatch_or (o : Opcode) {k : Nat} (x : BitVec k) (hmask : ∀ j, j < k → o.rowMask.getLsbD j = false) :
    decodeWord (o.rowMatch ||| x.setWidth 32) = .ok (o.instr (o.rowMatch ||| x.setWidth 32)) :=
  (Opcode.row_iff_decodeWord o _).mp (Laws.EncodingRow.or_and_mask _ _ x o.rowMatch_and_rowMask hmask)

/-- The word of an instruction decodes to the instruction: its row's operand bits hold its operands. -/
theorem decodeWord_of_encodeWord {i : Instr} {w : Word} (h : encodeWord i = some w) : decodeWord w = .ok i := by
  cases i with
  | tick | sample => cases h
  | nop | init | allOff | clrErr =>
    obtain rfl := Option.some.inj h
    rfl
  | noteOn n =>
    obtain rfl := Option.some.inj h
    rw [decodeWord_rowMatch_or .noteOn n (by decide), Opcode.instr, extract_or .noteOn n (by decide) rfl]
  | noteOff n =>
    obtain rfl := Option.some.inj h
    rw [decodeWord_rowMatch_or .noteOff n (by decide), Opcode.instr, extract_or .noteOff n (by decide) rfl]
  | setFm hr depth =>
    obtain rfl := Option.some.inj h
    rw [decodeWord_rowMatch_or .setFm (depth ++ hr) (by decide), instr_setFm]
  | setMvol l =>
    obtain rfl := Option.some.inj h
    rw [decodeWord_rowMatch_or .setMvol l (by decide), Opcode.instr, extract_or .setMvol l (by decide) rfl]
  | bip d =>
    obtain rfl := Option.some.inj h
    rw [decodeWord_rowMatch_or .bip d (by decide), Opcode.instr, extract_or .bip d (by decide) rfl]

/-- A word that decodes is the word of what it decodes to. -/
theorem encodeWord_of_decodeWord {i : Instr} {w : Word} (h : decodeWord w = .ok i) : encodeWord i = some w := by
  rcases decodeWord_cases w with ⟨-, herr⟩ | ⟨o, hopc, ⟨-, herr⟩ | ⟨-, -, -, herr⟩ | ⟨hr, hn, hok⟩⟩
  case inr.inr.inr =>
    obtain rfl : o.instr w = i := Except.ok.inj (hok.symm.trans h)
    exact encodeWord_instr_of_checks hopc hr hn
  all_goals exact absurd (herr.symm.trans h) nofun

theorem decodeWord_eq_ok_iff {i : Instr} {w : Word} : decodeWord w = .ok i ↔ encodeWord i = some w :=
  ⟨encodeWord_of_decodeWord, decodeWord_of_encodeWord⟩

/-- A strobe has no word (R87), so no word decodes to one. -/
theorem decodeWord_ne_strobe {i : Instr} (hi : i = .tick ∨ i = .sample) (w : Word) : decodeWord w ≠ .ok i := by
  rw [Ne, decodeWord_eq_ok_iff]
  rcases hi with rfl | rfl <;> nofun

/-- The cycle of an instruction that has a word is the command cycle of the word. -/
theorem encode_of_encodeWord {i : Instr} {w : Word} (h : encodeWord i = some w) : encode i = PortCycle.command w := by
  have hstrobe : i ≠ .tick ∧ i ≠ .sample := by constructor <;> (rintro rfl; cases h)
  simp [encode, h, hstrobe, PortCycle.command, PortCycle.quiet]

theorem decodeCycle_command (w : Word) : decodeCycle (PortCycle.command w) = [decodeWord w] := rfl

/-! ### The words as the sums of section 3 -/

/-- The match of a row and an operand in bits that the match leaves 0 add up. -/
theorem rowMatch_or_eq_ofNat (o : Opcode) {k : Nat} (x : BitVec k)
    (hmatch : ∀ j, j < k → o.rowMatch.getLsbD j = false) :
    o.rowMatch ||| x.setWidth 32 = BitVec.ofNat 32 (o.rowMatch.toNat + x.toNat) := by
  have hdisj := Laws.EncodingRow.or_and_mask o.rowMatch 0#32 x BitVec.zero_and hmatch
  rw [BitVec.zero_or, BitVec.and_comm] at hdisj
  rw [← BitVec.add_eq_or_of_and_eq_zero _ _ hdisj, BitVec.ofNat_add, BitVec.ofNat_toNat, BitVec.ofNat_toNat,
    BitVec.setWidth_eq]

theorem encodeWord_noteOn (n : BitVec 7) : encodeWord (.noteOn n) = some (BitVec.ofNat 32 (0x02000000 + n.toNat)) :=
  congrArg some (rowMatch_or_eq_ofNat .noteOn n (by decide))

theorem encodeWord_noteOff (n : BitVec 7) : encodeWord (.noteOff n) = some (BitVec.ofNat 32 (0x03000000 + n.toNat)) :=
  congrArg some (rowMatch_or_eq_ofNat .noteOff n (by decide))

theorem encodeWord_setFm (hr : BitVec 8) (depth : BitVec 4) :
    encodeWord (.setFm hr depth) = some (BitVec.ofNat 32 (0x05000000 + depth.toNat * 256 + hr.toNat)) := by
  rw [Nat.add_assoc, ← toNat_append_byte]
  exact congrArg some (rowMatch_or_eq_ofNat .setFm (depth ++ hr) (by decide))

theorem encodeWord_setMvol (l : BitVec 4) : encodeWord (.setMvol l) = some (BitVec.ofNat 32 (0x06000000 + l.toNat)) :=
  congrArg some (rowMatch_or_eq_ofNat .setMvol l (by decide))

theorem encodeWord_bip (d : BitVec 16) : encodeWord (.bip d) = some (BitVec.ofNat 32 (0x07000000 + d.toNat)) :=
  congrArg some (rowMatch_or_eq_ofNat .bip d (by decide))

/-- The words that decode to an instruction, where its word is known. -/
theorem decodeWord_eq_ok_iff_eq {i : Instr} {x : Word} (h : encodeWord i = some x) (w : Word) :
    decodeWord w = .ok i ↔ w = x := by
  rw [decodeWord_eq_ok_iff, h, Option.some_inj, eq_comm]

/-! ### The assembler (R88) -/

/-- A line that denotes one instruction is the cycle of its word while its operands are in the range `p`. -/
theorem assemble_of_encodeWord {l : AsmLine} {i : Instr} {w : Word} {p : Prop} [Decidable p] (hwf : l.wf = true ↔ p)
    (hi : l.instr? = some i) (hw : p → encodeWord i = some w) :
    l.assemble = if p then some [PortCycle.command w] else none := by
  have hinstr : (if l.wf then l.instr?.map fun i => [encode i] else none) = if p then some [PortCycle.command w] else none := by
    refine if_ctx_congr hwf (fun hp => ?_) fun _ => rfl
    rw [hi, Option.map_some, encode_of_encodeWord (hw hp)]
  refine Eq.trans ?_ hinstr
  cases l with
  | word | reset | read | ticks | samples => cases hi
  | _ => rfl

/-! ### The byte-serial carrier (20_memory.md R64) -/

theorem wordOfBytes_extract (w : Word) :
    wordOfBytes (w.extractLsb' 0 8) (w.extractLsb' 8 8) (w.extractLsb' 16 8) (w.extractLsb' 24 8) = w := by
  rw [wordOfBytes, BitVec.extractLsb'_append_extractLsb'_eq_extractLsb' (show 24 = 16 + 8 from rfl),
    BitVec.extractLsb'_append_extractLsb'_eq_extractLsb' (show 16 = 8 + 8 from rfl),
    BitVec.extractLsb'_append_extractLsb'_eq_extractLsb' (show 8 = 0 + 8 from rfl)]
  exact BitVec.extractLsb'_eq_self

theorem takeWord_eq_none_iff (bs : List Byte) : takeWord bs = none ↔ bs.length < 4 := by
  unfold takeWord
  split
  case h_1 => simp
  case h_2 h =>
    match bs with
    | b0 :: b1 :: b2 :: b3 :: rest => exact absurd rfl (h b0 b1 b2 b3 rest)
    | [] | [_] | [_, _] | [_, _, _] => simp

end Sys2Proof

namespace Sys2Proof.Machine

/-! ### The obligations -/

/-- Settles O1: an instruction with a word decodes by `decodeWord_of_encodeWord`, and the two without one are strobes. -/
theorem encodeThenDecodeGivesTheOperation : Obligations.EncodeThenDecodeGivesTheOperation := by
  intro i
  cases hw : encodeWord i with
  | some w => rw [encode_of_encodeWord hw, decodeCycle_command, decodeWord_of_encodeWord hw]
  | none =>
    cases i with
    | tick | sample => rfl
    | _ => cases hw

/-- Settles O2: what the checks leave of a word is its row's match with the operands. -/
theorem decodeThenEncodeGivesTheWord : Obligations.DecodeThenEncodeGivesTheWord :=
  fun _ _ => encodeWord_of_decodeWord

/-- Settles O36: SET_FM has one word, and it is one write. -/
theorem setFmWritesOnlyTheFmRegisters : Obligations.SetFmWritesOnlyTheFmRegisters :=
  ⟨fun w hr depth => decodeWord_eq_ok_iff_eq (encodeWord_setFm hr depth) w, fun s hr depth => exec_setFm hr depth s⟩

/-- Settles O37: SET_MVOL has one word, and it is one write. -/
theorem setMvolWritesOnlyTheMasterVolume : Obligations.SetMvolWritesOnlyTheMasterVolume :=
  ⟨fun w l => decodeWord_eq_ok_iff_eq (encodeWord_setMvol l) w, fun s l => exec_setMvol l s⟩

/-- Settles O38: BIP has one word, and it is one write. -/
theorem bipReplacesTheCountAndKeepsThePhase : Obligations.BipReplacesTheCountAndKeepsThePhase :=
  ⟨fun w d => decodeWord_eq_ok_iff_eq (encodeWord_bip d) w, fun s d => exec_bip d s⟩

/-- Settles O6: a line with an operand is the sum of its row's match and the operand; the others are run. -/
theorem assemblerGivesEachLineItsCycles : Obligations.AssemblerGivesEachLineItsCycles := by
  refine ⟨rfl, rfl, rfl, rfl, rfl, rfl, rfl, fun a => ?_, fun n => ?_, fun n => ?_, fun hr depth => ?_, fun l => ?_,
    fun d => ?_, fun w => ?_, rfl, rfl, rfl, fun k => rfl, fun k => rfl⟩
  case refine_1 | refine_7 => exact if_congr decide_eq_true_iff rfl rfl
  · refine assemble_of_encodeWord decide_eq_true_iff rfl fun h => ?_
    rw [encodeWord_noteOn, BitVec.toNat_ofNat, Nat.mod_eq_of_lt (by omega)]
  · refine assemble_of_encodeWord decide_eq_true_iff rfl fun h => ?_
    rw [encodeWord_noteOff, BitVec.toNat_ofNat, Nat.mod_eq_of_lt (by omega)]
  · refine assemble_of_encodeWord (by simp [AsmLine.wf]) rfl fun h => ?_
    rw [encodeWord_setFm, BitVec.toNat_ofNat, BitVec.toNat_ofNat, Nat.mod_eq_of_lt (by omega), Nat.mod_eq_of_lt (by omega)]
  · refine assemble_of_encodeWord decide_eq_true_iff rfl fun h => ?_
    rw [encodeWord_setMvol, BitVec.toNat_ofNat, Nat.mod_eq_of_lt (by omega)]
  · refine assemble_of_encodeWord decide_eq_true_iff rfl fun h => ?_
    rw [encodeWord_bip, BitVec.toNat_ofNat, Nat.mod_eq_of_lt (by omega)]

/-- Settles O7: the bytes of a word are its slices, joined again in their order. -/
theorem byteSerialWordsAreLittleEndian : Obligations.ByteSerialWordsAreLittleEndian := by
  refine ⟨fun w rest => ?_, fun b0 b1 b2 b3 => ?_, takeWord_eq_none_iff⟩
  · exact congrArg (fun x => some (x, rest)) (wordOfBytes_extract w)
  · simp only [wordOfBytes, toNat_append_byte]
    omega

end Sys2Proof.Machine

namespace Sys2Proof.Machine

/-! ## 60_exceptions.md and 70_reset_and_hazards.md: the events of a cycle (R206, R216, R221, R230) -/

theorem andThen_assoc (o : Host.Outcome State Fault Refusal) (f g : State → Host.Outcome State Fault Refusal) :
    andThen (andThen o f) g = andThen o fun s => andThen (f s) g := by
  cases o <;> rfl

theorem andThen_next_right (o : Host.Outcome State Fault Refusal) : andThen o .next = o := by
  cases o <;> rfl

/-- An event that a port may ask for. -/
theorem runEvents_ite (b : Bool) (e : Except CmdErr Instr) (s : State) :
    runEvents (if b then [e] else []) s = if b then runEvent e s else .next s := by
  cases b
  · rfl
  · exact andThen_next_right _

/-- The events of a cycle that is no reset: SAMPLE, then TICK, then the command word, each where its port asks for it. -/
theorem runEvents_decodeCycle {c : PortCycle} (hrst : c.rst = false) (s : State) :
    runEvents (decodeCycle c) s =
      andThen (if c.sampleStrobe then exec .sample s else .next s) fun s1 =>
      andThen (if c.tickStrobe then exec .tick s1 else .next s1) fun s2 =>
        if c.cmdValid then runEvent (decodeWord c.cmdData) s2 else .next s2 := by
  have hevents : decodeCycle c = (if c.sampleStrobe then [.ok .sample] else []) ++ (if c.tickStrobe then [.ok .tick] else []) ++
      (if c.cmdValid then [decodeWord c.cmdData] else []) := by
    rw [decodeCycle, hrst]
    rfl
  rw [hevents, runEvents_append, runEvents_append, andThen_assoc]
  simp only [runEvents_ite, funext (runEvents_ite _ _), runEvent_ok]

section cycle
variable {s : State} {c : PortCycle} {rest : List PortCycle} (hl : s.cfg.Legal) (hin : s.inputs = c :: rest)
include hl hin

theorem step_of_rst (hrst : c.rst = true) : step s = .next { s with inputs := rest, seqTick := false }.reinit := by
  rw [step_of_inputs hl hin, runCycle_of_rst s hrst, beginCycle_of_inputs hin]

theorem step_of_not_rst (hrst : c.rst = false) :
    step s = runEvents (decodeCycle c) { s with inputs := rest, seqTick := false } := by
  rw [step_of_inputs hl hin, runCycle_of_not_rst s hrst, beginCycle_of_inputs hin]

end cycle

/-- Every way an event answers a next state. -/
theorem runEvent_eq_next {e : Except CmdErr Instr} {s t : State} (h : runEvent e s = .next t) :
    (∃ i, e = .ok i ∧ exec i s = .next t) ∨ ∃ r, e = .error r ∧ t = s.raiseCmdError r := by
  cases e with
  | ok i => exact .inl ⟨i, rfl, h⟩
  | error r =>
    cases h
    exact .inr ⟨r, rfl, rfl⟩

/-- Settles O8: the command word is the only event of the cycle. -/
theorem stepRunsTheDecodedCommand : Obligations.StepRunsTheDecodedCommand := by
  intro s c rest i hl hin hrst hsample htick hcmd hword
  rw [step_of_not_rst hl hin hrst, runEvents_decodeCycle hrst]
  simp [hsample, htick, hcmd, hword]

/-- Settles O9: the strobe is the only event of the cycle. -/
theorem stepRunsASingleStrobe : Obligations.StepRunsASingleStrobe := by
  intro s c rest hl hin hrst hcmd
  rw [step_of_not_rst hl hin hrst, runEvents_decodeCycle hrst]
  refine ⟨fun hsample htick => ?_, fun hsample htick => ?_⟩
  all_goals simp only [hsample, htick, hcmd, if_true, Bool.false_eq_true, if_false, andThen_next, andThen_next_right]

/-- Settles O10: a reset cycle leaves the reset values of its state, and any other runs its events in their order. -/
theorem eventsOfACycleRunInTheirFixedOrder : Obligations.EventsOfACycleRunInTheirFixedOrder := by
  intro s c rest hl hin
  refine ⟨fun hrst c' hrst' => ?_, fun hrst => ⟨_, step_of_rst hl hin hrst, ?_⟩, fun hrst => ?_,
    rfl, rfl, rfl⟩
  · rw [step_of_rst hl hin hrst, step_of_rst (s := { s with inputs := c' :: rest }) hl rfl hrst']
  · exact atReset_reinit (s := { s with inputs := rest, seqTick := false }) hl
  · rw [step_of_not_rst hl hin hrst, runEvents_decodeCycle hrst]

/-- Settles O11: a reset cycle discards its events, and `reinit` clears the pulse. -/
theorem resetCycleIgnoresEveryOtherEvent : Obligations.ResetCycleIgnoresEveryOtherEvent := by
  intro s c rest hl hin hrst
  refine ⟨_, step_of_rst hl hin hrst, rfl, rfl, fun d hd => ?_, fun d more hrest hd => ?_⟩
  · exact step_of_rst (s := { s with inputs := d :: rest }) hl rfl hd
  · exact step_of_not_rst (s := State.reinit _) hl hrest hd

/-- Settles O15: `step` runs no cycle of such a configuration. -/
theorem illegalConfigurationIsRefused : Obligations.IllegalConfigurationIsRefused :=
  fun _ hl => if_neg hl

/-- The read address is no event: `decodeCycle` and `rst` are all that `runCycle` takes from a cycle. -/
theorem runCycle_rdAddr (c : PortCycle) (a : BitVec 8) (s : State) : runCycle { c with rdAddr := a } s = runCycle c s := rfl

/-- Settles O16: `runCycle` takes no read address. -/
theorem readsHaveNoSideEffect : Obligations.ReadsHaveNoSideEffect :=
  fun s c rest a => if_congr Iff.rfl (runCycle_rdAddr c a { s with inputs := c :: rest }).symm rfl

/-! ### Quiet cycles (R216) -/

/-- No port of the cycle asks for an event. -/
def IsQuiet (c : PortCycle) : Prop :=
  c.rst = false ∧ c.cmdValid = false ∧ c.tickStrobe = false ∧ c.sampleStrobe = false

theorem isQuiet_quiet : IsQuiet PortCycle.quiet := ⟨rfl, rfl, rfl, rfl⟩

theorem step_of_isQuiet {s : State} (hl : s.cfg.Legal) (hq : IsQuiet s.nextInput) : step s = .next s.beginCycle := by
  obtain ⟨hrst, hcmd, htick, hsample⟩ := hq
  rw [step_of_legal hl, runCycle_of_not_rst s hrst, runEvents_decodeCycle hrst]
  simp [hcmd, htick, hsample]

theorem beginCycle_of_no_pulse {s : State} (hpulse : s.seqTick = false) :
    s.beginCycle = { s with inputs := s.inputs.tail } := by
  cases s
  cases hpulse
  rfl

theorem stepTimes_of_quiet {s : State} {quiet rest : List PortCycle} (hl : s.cfg.Legal) (hin : s.inputs = quiet ++ rest)
    (hpulse : s.seqTick = false) (hq : ∀ c ∈ quiet, IsQuiet c) :
    stepTimes quiet.length s = .next { s with inputs := rest } := by
  induction quiet generalizing s with
  | nil =>
    rw [List.nil_append] at hin
    subst hin
    rfl
  | cons c quiet ih =>
    have hnext : s.nextInput = c := by rw [State.nextInput, hin]; rfl
    have hstep := step_of_isQuiet hl (hnext ▸ hq c List.mem_cons_self)
    rw [beginCycle_of_no_pulse hpulse] at hstep
    rw [List.length_cons, stepTimes, hstep, andThen_next]
    refine ih (s := { s with inputs := s.inputs.tail }) hl ?_ hpulse fun d hd => hq d (List.mem_cons_of_mem c hd)
    rw [hin]
    rfl

theorem stepTimes_of_no_input {s : State} (hl : s.cfg.Legal) (hin : s.inputs = []) (hpulse : s.seqTick = false) (k : Nat) :
    stepTimes k s = .next s := by
  have hnext : s.nextInput = PortCycle.quiet := by rw [State.nextInput, hin]; rfl
  have hstay : s.beginCycle = s := by
    rw [beginCycle_of_no_pulse hpulse, hin, List.tail_nil, ← hin]
  have hstep : step s = .next s := by rw [step_of_isQuiet hl (hnext ▸ isQuiet_quiet), hstay]
  induction k with
  | zero => rfl
  | succ k ih => rw [stepTimes, hstep, andThen_next, ih]

/-- Settles O14: a quiet cycle only takes its inputs and ends the pulse. -/
theorem quietCyclesChangeNothing : Obligations.QuietCyclesChangeNothing :=
  ⟨fun _ hl hrst hcmd htick hsample => step_of_isQuiet hl ⟨hrst, hcmd, htick, hsample⟩,
    fun _ _ _ hl hin hpulse hq => stepTimes_of_quiet hl hin hpulse hq,
    fun _ hl hin hpulse k => stepTimes_of_no_input hl hin hpulse k⟩

/-! ### The `seq_tick` pulse (R179, R230) -/

/-- SAMPLE starts the pulse, INIT takes it back, and no other operation writes it. -/
theorem exec_seqTick {i : Instr} {s t : State} (h : exec i s = .next t) :
    (i = .sample ∧ t.seqTick = true) ∨ (i = .init ∧ t.seqTick = false) ∨
      (i ≠ .sample ∧ i ≠ .init ∧ t.seqTick = s.seqTick) := by
  rcases exec_eq_next h with ⟨rfl, rfl⟩ | ⟨rfl, rfl⟩ | ⟨rfl | rfl, rfl⟩ | ⟨n, v, rfl, -, -, rfl⟩ | ⟨n, rfl, -, rfl⟩ |
    ⟨rfl, rfl⟩ | ⟨hr, depth, rfl, rfl⟩ | ⟨l, rfl, rfl⟩ | ⟨d, rfl, rfl⟩ | ⟨rfl, rfl⟩ | ⟨rfl, rfl⟩ | ⟨S, rfl, -, rfl⟩
  all_goals simp

theorem runEvent_decodeWord_seqTick {w : Word} {s t : State} (h : runEvent (decodeWord w) s = .next t) :
    t.seqTick = true ↔ s.seqTick = true ∧ decodeWord w ≠ .ok .init := by
  obtain ⟨i, hword, hrun⟩ | ⟨r, hword, rfl⟩ := runEvent_eq_next h
  · have hi : i ≠ .sample := by
      rintro rfl
      exact decodeWord_ne_strobe (.inr rfl) w hword
    obtain ⟨rfl, -⟩ | ⟨rfl, hclear⟩ | ⟨-, hinit, hkeep⟩ := exec_seqTick hrun
    · exact absurd rfl hi
    · simp [hword, hclear]
    · simp [hword, hinit, hkeep]
  · simp [hword]

/-- An event that a port may ask for ran, or left the state alone. -/
theorem eq_next_of_ite {b : Bool} {o : Host.Outcome State Fault Refusal} {s t : State}
    (h : (if b then o else .next s) = .next t) : (b = true ∧ o = .next t) ∨ (b = false ∧ s = t) := by
  cases b <;> simpa using h

theorem runEvents_decodeCycle_seqTick {c : PortCycle} {s t : State} (hrst : c.rst = false) (hpulse : s.seqTick = false)
    (h : runEvents (decodeCycle c) s = .next t) :
    t.seqTick = true ↔ c.sampleStrobe = true ∧ ¬ (c.cmdValid = true ∧ decodeWord c.cmdData = .ok .init) := by
  rw [runEvents_decodeCycle hrst] at h
  obtain ⟨s1, hsample, h⟩ := andThen_eq_next.mp h
  obtain ⟨s2, htick, hcmd⟩ := andThen_eq_next.mp h
  have hs1 : s1.seqTick = c.sampleStrobe := by
    obtain ⟨hstrobe, hrun⟩ | ⟨hstrobe, rfl⟩ := eq_next_of_ite hsample
    · simpa [hstrobe] using exec_seqTick hrun
    · rw [hpulse, hstrobe]
  have hs2 : s2.seqTick = s1.seqTick := by
    obtain ⟨-, hrun⟩ | ⟨-, rfl⟩ := eq_next_of_ite htick
    · simpa using exec_seqTick hrun
    · rfl
  rw [← hs1, ← hs2]
  obtain ⟨hvalid, hrun⟩ | ⟨hvalid, rfl⟩ := eq_next_of_ite hcmd
  · simpa [hvalid] using runEvent_decodeWord_seqTick hrun
  · simp [hvalid]

/-- Settles O18: the cycle begins with the pulse ended, and its SAMPLE and its INIT alone write it. -/
theorem seqTickFollowsExactlyTheSampleCycles : Obligations.SeqTickFollowsExactlyTheSampleCycles := by
  intro s t h
  obtain ⟨-, ⟨hrst, rfl⟩ | ⟨hrst, hrun⟩⟩ := step_eq_next h
  · simp [hrst]
  · rw [runEvents_decodeCycle_seqTick hrst s.beginCycle_seqTick hrun, hrst]
    simp

/-! ### The configuration (20_memory.md R60) -/

theorem exec_cfg {i : Instr} {s t : State} (h : exec i s = .next t) : t.cfg = s.cfg := by
  rcases exec_eq_next h with ⟨-, rfl⟩ | ⟨-, rfl⟩ | ⟨-, rfl⟩ | ⟨n, v, -, -, -, rfl⟩ | ⟨n, -, -, rfl⟩ | ⟨-, rfl⟩ |
    ⟨hr, depth, -, rfl⟩ | ⟨l, -, rfl⟩ | ⟨d, -, rfl⟩ | ⟨-, rfl⟩ | ⟨-, rfl⟩ | ⟨S, -, -, rfl⟩
  all_goals simp

theorem runEvent_cfg {e : Except CmdErr Instr} {s t : State} (h : runEvent e s = .next t) : t.cfg = s.cfg := by
  obtain ⟨i, -, hrun⟩ | ⟨r, -, rfl⟩ := runEvent_eq_next h
  · exact exec_cfg hrun
  · exact s.raiseCmdError_cfg r

theorem step_cfg {s t : State} (h : step s = .next t) : t.cfg = s.cfg := by
  obtain ⟨-, ⟨-, rfl⟩ | ⟨-, hrun⟩⟩ := step_eq_next h
  · rfl
  · exact runEvents_induction (P := fun u => u.cfg = s.cfg) (fun _ _ _ _ hu hv => (runEvent_cfg hv).trans hu)
      s.beginCycle_cfg hrun

/-- Settles O17: no setter writes `cfg`, and the events of a cycle are operations and errors. -/
theorem tablesAndConfigurationAreNeverWritten : Obligations.TablesAndConfigurationAreNeverWritten :=
  ⟨fun _ _ _ => exec_cfg, fun _ _ => step_cfg⟩

end Sys2Proof.Machine

namespace Sys2Proof.Machine

/-! ## 10_state.md: the invariant (R30, R35, R36) and what SAMPLE and NOTE_ON need of it -/

/-! ### Where NOTE_ON and SAMPLE complete -/

/-- NOTE_ON finds no slot exactly when every voice is active and the pointer names none. -/
theorem getElem?_slotFor_eq_none_iff (s : State) :
    s.voices[slotFor s]? = none ↔ (∀ v ∈ s.voices, v.note ≠ 0#8) ∧ s.voices.length ≤ s.rr.toNat := by
  cases hfree : firstFree s.voices with
  | none =>
    have hfull := firstFree_none.mp hfree
    rw [slotFor_of_full hfull, List.getElem?_eq_none_iff]
    exact (and_iff_right hfull).symm
  | some i =>
    obtain ⟨⟨v, hv, hnote⟩, -⟩ := firstFree_some hfree
    rw [slotFor, hfree, Option.getD_some, hv]
    exact iff_of_false nofun fun h => h.1 v (List.mem_of_getElem? hv) hnote

/-- The voice sum is defined exactly when every wavetable read is in range. -/
theorem voiceSum_isSome_iff_readable (s : State) : (voiceSum s.cfg s.voices).isSome = true ↔ Spec.Readable s := by
  simp only [voiceSum_isSome, contribution_isSome, toNat_posByte]
  exact ⟨fun h hk v hv => h v hv hk, fun h v hv hk => h hk v hv⟩

theorem exec_sample_of_none {s : State} (h : voiceSum s.cfg s.voices = none) : exec .sample s = .fault .wtReadOutOfRange := by
  simp only [exec, execSample, h]

section inversion
variable {s t : State} {n : BitVec 7}

theorem exec_noteOn_eq_next (h : exec (.noteOn n) s = .next t) : (n = 0#7 ∧ t = s) ∨
    ∃ v, n ≠ 0#7 ∧ s.voices[slotFor s]? = some v ∧
      t = ((s.setVoices (s.voices.set (slotFor s) (startNote s n v))).setRr (rrAfter s)).setFreeCount
        (s.freeCount + loopEndDraws s.cfg) := by
  simpa using exec_eq_next h

theorem exec_noteOff_eq_next (h : exec (.noteOff n) s = .next t) : (n = 0#7 ∧ t = s) ∨
    (n ≠ 0#7 ∧ t = s.setVoices (s.voices.map (releaseNote n))) := by
  simpa using exec_eq_next h

theorem exec_sample_eq_next (h : exec .sample s = .next t) : ∃ S, voiceSum s.cfg s.voices = some S ∧
    t = ((s.stepBip.setVoices (s.voices.map (sampleVoice s.cfg))).setOut (outputLevel s.cfg (attenuated s S))).setSeqTick
      true := by
  simpa using exec_eq_next h

end inversion

/-- Settles O33: NOTE_ON of a nonzero note completes where it finds a slot. -/
theorem noteOnStopsOnlyWithoutASlot : Obligations.NoteOnStopsOnlyWithoutASlot := by
  intro s n
  by_cases hn : n = 0#7
  · simp [hn]
  rw [← getElem?_slotFor_eq_none_iff]
  cases hslot : s.voices[slotFor s]? with
  | none => simp [exec_noteOn_no_slot hn hslot, hn, eq_comm]
  | some v => simp [exec_noteOn hn hslot]

/-- Settles O46: SAMPLE completes where the voice sum is defined. -/
theorem sampleStopsOnlyOnAReadOutsideTheRom : Obligations.SampleStopsOnlyOnAReadOutsideTheRom := by
  intro s
  rw [← voiceSum_isSome_iff_readable]
  cases hsum : voiceSum s.cfg s.voices with
  | none => simp [exec_sample_of_none hsum, eq_comm]
  | some S => simp [exec_sample hsum]

/-! ### The output (R177) -/

theorem level_mem (c : Config) (ma : Int) : 0 ≤ Spec.level c ma ∧ Spec.level c ma < 2 ^ c.outW := by
  have hpos : (0 : Int) < 2 ^ c.outW := by positivity
  rw [Spec.level]
  cases c.outOverflow with
  | saturate => dsimp only; omega
  | wrap => exact ⟨Int.emod_nonneg _ hpos.ne', Int.emod_lt_of_pos _ hpos⟩

theorem outputLevel_lt {c : Config} (hl : c.Legal) (ma : Int) : (outputLevel c ma).toNat < 2 ^ c.outW := by
  have hlt := (level_mem c ma).2
  rw [← toNat_outputLevel hl] at hlt
  exact_mod_cast hlt

/-- Settles O48: the clamp and the residue are both below 2^OUT_W. -/
theorem outputLevelStaysInItsBits : Obligations.OutputLevelStaysInItsBits :=
  fun _ ma hl => ⟨toNat_outputLevel hl ma, outputLevel_lt hl ma⟩

/-! ### The writes that keep the invariant -/

theorem rc0_legal (k : VoiceKind) : (Config.rc0 k).Legal := by cases k <;> decide +kernel

theorem sound_resetOf {c : Config} (hl : c.Legal) : Sound (State.resetOf c) := by
  constructor
  case legal => exact hl
  case slots => exact List.length_replicate
  case voices =>
    intro v hv
    rw [List.eq_of_mem_replicate hv]
    exact voiceInv_reset c
  case rrLt => exact hl.nVoices.1
  case outLt =>
    rw [toNat_resetOf_out hl]
    exact hl.outOffset.2
  case errCodeLe => exact Nat.zero_le 3
  case errClear => exact iff_of_true rfl rfl

/-- The codes of R202 are 1 to 3. -/
theorem cmdErr_code_mem (r : CmdErr) : r.code.toNat ≤ 3 ∧ r.code ≠ 0#4 := by cases r <;> decide

section writes
variable {s : State} (hs : Sound s)
include hs

theorem Sound.reinit : Sound s.reinit := { sound_resetOf hs.legal with }

theorem Sound.setInputs (ins : List PortCycle) : Sound (s.setInputs ins) := { hs with }

theorem Sound.beginCycle : Sound s.beginCycle := { hs with }

theorem Sound.setVoices_map {f : Voice → Voice} (hf : ∀ v, VoiceInv s.cfg v → VoiceInv s.cfg (f v)) :
    Sound (s.setVoices (s.voices.map f)) := by
  refine { hs with slots := ?_, voices := ?_ }
  · simpa using hs.slots
  · simpa using fun v hv => hf v (hs.voices v hv)

theorem Sound.setVoices_set {v : Voice} (hv : VoiceInv s.cfg v) (i : Nat) : Sound (s.setVoices (s.voices.set i v)) := by
  refine { hs with slots := ?_, voices := fun u hu => ?_ }
  · simpa using hs.slots
  · obtain hold | rfl := List.mem_or_eq_of_mem_set hu
    · exact hs.voices u hold
    · exact hv

theorem rrAfter_lt : (rrAfter s).toNat < s.cfg.nVoices := by
  rw [rrAfter]
  split
  · exact hs.rrLt
  · rw [toNat_nextRr hs.legal]
    exact Nat.mod_lt _ hs.legal.nVoices.1

theorem Sound.stepBip : Sound s.stepBip := by
  rw [stepBip_eq]
  split
  · exact hs
  · exact { hs with }

theorem Sound.clearErr : Sound s.clearErr := { hs with errCodeLe := Nat.zero_le 3, errClear := iff_of_true rfl rfl }

theorem Sound.raiseCmdError (r : CmdErr) : Sound (s.raiseCmdError r) := by
  rw [State.raiseCmdError]
  split
  · exact hs
  · obtain ⟨hle, hne⟩ := cmdErr_code_mem r
    exact { hs with errCodeLe := hle, errClear := iff_of_false nofun hne }

/-- Every operation keeps the invariant. -/
theorem Sound.exec_next {i : Instr} {t : State} (h : exec i s = .next t) : Sound t := by
  rcases exec_eq_next h with ⟨-, rfl⟩ | ⟨-, rfl⟩ | ⟨-, rfl⟩ | ⟨n, v, -, -, -, rfl⟩ | ⟨n, -, -, rfl⟩ | ⟨-, rfl⟩ |
    ⟨hr, depth, -, rfl⟩ | ⟨l, -, rfl⟩ | ⟨d, -, rfl⟩ | ⟨-, rfl⟩ | ⟨-, rfl⟩ | ⟨S, -, -, rfl⟩
  · exact hs
  · exact hs.reinit
  · exact hs
  · exact { hs.setVoices_set (voiceInv_start (n := n) (v := v) hs.legal) (slotFor s) with rrLt := rrAfter_lt hs }
  · exact hs.setVoices_map fun _ => voiceInv_release
  · exact hs.setVoices_map fun _ => voiceInv_free
  · exact { hs with }
  · exact { hs with }
  · exact { hs with }
  · exact hs.clearErr
  · exact hs.setVoices_map fun _ => voiceInv_tick hs.legal
  · have hbip := hs.stepBip
    have hvoices := hbip.setVoices_map (f := sampleVoice s.cfg) fun v => by
      rw [stepBip_cfg]
      exact voiceInv_sample hs.legal
    rw [stepBip_voices] at hvoices
    refine { hvoices with outLt := ?_ }
    simpa using outputLevel_lt hs.legal (attenuated s S)

theorem Sound.runEvent_next {e : Except CmdErr Instr} {t : State} (h : runEvent e s = .next t) : Sound t := by
  obtain ⟨i, -, hrun⟩ | ⟨r, -, rfl⟩ := runEvent_eq_next h
  · exact hs.exec_next hrun
  · exact hs.raiseCmdError r

theorem Sound.step_next {t : State} (h : step s = .next t) : Sound t := by
  obtain ⟨-, ⟨-, rfl⟩ | ⟨-, hrun⟩⟩ := step_eq_next h
  · exact hs.beginCycle.reinit
  · exact runEvents_induction (fun _ _ _ _ hu hv => hu.runEvent_next hv) hs.beginCycle hrun

/-! ### Progress from the invariant -/

theorem Sound.readable : Spec.Readable s := fun hk v hv hnote =>
  toNat_posByte v.samplePos ▸ (hs.voices v hv).inRom hk hnote

theorem Sound.exists_slot : ∃ v, s.voices[slotFor s]? = some v := by
  refine Option.ne_none_iff_exists'.mp fun hnone => ?_
  have hover := ((getElem?_slotFor_eq_none_iff s).mp hnone).2
  have hlt := hs.slots ▸ hs.rrLt
  omega

/-- From a state that meets the invariant every operation completes. -/
theorem Sound.exec_completes (i : Instr) : ∃ t, exec i s = .next t := by
  cases i with
  | noteOn n =>
    by_cases hn : n = 0#7
    · exact ⟨s, hn ▸ exec_noteOn_zero s⟩
    · obtain ⟨v, hv⟩ := hs.exists_slot
      exact ⟨_, exec_noteOn hn hv⟩
  | noteOff n =>
    by_cases hn : n = 0#7
    · exact ⟨s, hn ▸ exec_noteOff_zero s⟩
    · exact ⟨_, exec_noteOff hn⟩
  | sample => exact ⟨_, exec_sample (voiceSum_eq_contrib hs.readable)⟩
  | _ => exact ⟨_, rfl⟩

theorem Sound.runEvent_completes (e : Except CmdErr Instr) : ∃ t, runEvent e s = .next t := by
  cases e with
  | ok i => exact hs.exec_completes i
  | error r => exact ⟨_, runEvent_error r s⟩

theorem Sound.step_completes : ∃ t, step s = .next t := by
  rw [step_of_legal hs.legal]
  cases hrst : s.nextInput.rst with
  | true => exact ⟨_, runCycle_of_rst s hrst⟩
  | false =>
    rw [runCycle_of_not_rst s hrst]
    obtain ⟨t, ht, -⟩ := runEvents_completes (P := Sound) (es := decodeCycle s.nextInput) (fun e _ u hu => by
      obtain ⟨v, hv⟩ := hu.runEvent_completes e
      exact ⟨v, hv, hu.runEvent_next hv⟩) hs.beginCycle
    exact ⟨t, ht⟩

end writes

theorem Reachable.cfg_sound {c : Config} {s : State} (h : Reachable c s) : s.cfg = c ∧ Sound s := by
  induction h with
  | reset hl => exact ⟨rfl, sound_resetOf hl⟩
  | load ins _ ih => exact ⟨ih.1, ih.2.setInputs ins⟩
  | step _ hstep ih => exact ⟨(step_cfg hstep).trans ih.1, ih.2.step_next hstep⟩

/-! ### The obligations -/

/-- Settles O19: the events of the cycle keep the invariant one by one. -/
theorem everyStepKeepsTheInvariant : Obligations.EveryStepKeepsTheInvariant := fun _ _ hs => hs.step_next

/-- Settles O20: RC0 is legal. -/
theorem resetStateMeetsTheInvariant : Obligations.ResetStateMeetsTheInvariant :=
  ⟨sound_resetOf (rc0_legal .sine), fun _ => sound_resetOf⟩

/-- Settles O21: each event of the cycle completes in a sound state and leaves a sound state to the next. -/
theorem machineNeverStops : Obligations.MachineNeverStops := fun _ => Sound.step_completes

/-- Settles O22: a reachable state is sound, and its slots meet `VoiceInv`. -/
theorem reachableStatesMeetTheSlotClaims : Obligations.ReachableStatesMeetTheSlotClaims := by
  intro c s h
  obtain ⟨rfl, hs⟩ := h.cfg_sound
  refine ⟨rfl, hs.slots, hs.rrLt, fun v hv => ?_⟩
  have hinv := hs.voices v hv
  refine ⟨hinv.velLe, hinv.notIdle, hinv.levelPos, fun hk hnote => ?_, ?_⟩
  · rw [← toNat_posByte]
    exact ⟨hinv.inRom hk hnote, hinv.inLoop hk hnote⟩
  · have hle := hinv.noteLe
    by_cases hnote : v.note = 0#8
    · exact .inl hnote
    · exact .inr ⟨by bv_omega, hle⟩

end Sys2Proof.Machine

namespace Sys2Proof.Machine

/-! ## 10_state.md: no field a kind does not use is heard (R29) -/

/-! ### Slots that agree in the fields their kind reads -/

section slots
variable {c : Config} {v w : Voice}

theorem sameHeard_self {k : VoiceKind} : Spec.SameHeard k v v := by
  cases k <;> simp [Spec.SameHeard]

theorem sameHeard_free {k : VoiceKind} (h : Spec.SameHeard k v w) : Spec.SameHeard k v.free w.free := ⟨Eq.refl _, h.2⟩

theorem sameHeard_releaseNote {k : VoiceKind} (h : Spec.SameHeard k v w) (n : BitVec 7) :
    Spec.SameHeard k (releaseNote n v) (releaseNote n w) := by
  obtain ⟨hnote, hk⟩ := h
  rw [releaseNote, releaseNote, hnote]
  split
  · cases k <;> simp_all [Spec.SameHeard]
  · exact ⟨hnote, hk⟩

theorem sameHeard_tickVoice (h : Spec.SameHeard c.voiceKind v w) :
    Spec.SameHeard c.voiceKind (tickVoice c v) (tickVoice c w) := by
  obtain ⟨hnote, hk⟩ := h
  rw [tickVoice_eq_tickSlot, tickVoice_eq_tickSlot, Spec.tickSlot, Spec.tickSlot, hnote]
  split
  · exact ⟨hnote, hk⟩
  · cases hkind : c.voiceKind with
    | sine | fm => simp_all [Spec.SameHeard]
    | wavetable =>
      rw [hkind] at hk
      obtain ⟨hpos, hstep, hstart, hend, hlevel, hrel⟩ := hk
      simp only [hrel, hlevel]
      split <;> simp_all [Spec.SameHeard]

theorem sameHeard_sampleVoice (h : Spec.SameHeard c.voiceKind v w) :
    Spec.SameHeard c.voiceKind (sampleVoice c v) (sampleVoice c w) := by
  obtain ⟨hnote, hk⟩ := h
  rw [sampleVoice_eq_sampleSlot, sampleVoice_eq_sampleSlot, Spec.sampleSlot, Spec.sampleSlot, hnote]
  split
  · exact ⟨hnote, hk⟩
  · cases hkind : c.voiceKind <;> simp_all [Spec.SameHeard]

theorem contribution_congr (h : Spec.SameHeard c.voiceKind v w) : contribution c v = contribution c w := by
  obtain ⟨hnote, hk⟩ := h
  rw [contribution, contribution, Voice.active, Voice.active, hnote]
  cases hkind : c.voiceKind <;> simp_all [fmIndex, fmOffset]

end slots

/-! ### Lists of such slots -/

section lists
variable {vs ws : List Voice}

theorem forall₂_set {R : Voice → Voice → Prop} {a b : Voice} (h : List.Forall₂ R vs ws) (hab : R a b) (i : Nat) :
    List.Forall₂ R (vs.set i a) (ws.set i b) := by
  induction h generalizing i with
  | nil => exact .nil
  | cons hhead htail ih =>
    cases i with
    | zero => exact .cons hab htail
    | succ i => exact .cons hhead (ih i)

theorem exists_getElem?_of_forall₂ {R : Voice → Voice → Prop} (h : List.Forall₂ R vs ws) {i : Nat} {v : Voice}
    (hv : vs[i]? = some v) : ∃ w, ws[i]? = some w := by
  obtain ⟨hi, -⟩ := List.getElem?_eq_some_iff.mp hv
  exact ⟨_, List.getElem?_eq_getElem (h.length_eq ▸ hi)⟩

/-- The slot choice reads no field but `note`. -/
theorem firstFree_congr {k : VoiceKind} (h : List.Forall₂ (Spec.SameHeard k) vs ws) : firstFree vs = firstFree ws := by
  induction h with
  | nil => rfl
  | cons hhead _ ih => rw [firstFree, firstFree, Voice.active, Voice.active, hhead.1, ih]

theorem voiceSum_congr {c : Config} (h : List.Forall₂ (Spec.SameHeard c.voiceKind) vs ws) : voiceSum c vs = voiceSum c ws := by
  induction h with
  | nil => rfl
  | cons hhead _ ih => rw [voiceSum_cons, voiceSum_cons, contribution_congr hhead, ih]

/-- An operation that keeps slots alike one by one keeps lists of them alike. -/
theorem sameHeard_map {k : VoiceKind} {f : Voice → Voice} (h : List.Forall₂ (Spec.SameHeard k) vs ws)
    (hf : ∀ v w, Spec.SameHeard k v w → Spec.SameHeard k (f v) (f w)) :
    List.Forall₂ (Spec.SameHeard k) (vs.map f) (ws.map f) :=
  List.rel_map hf h

end lists

/-! ### The obligation -/

/-- States that agree in all that is heard differ in their list of slots alone. -/
theorem sameSound_iff {s s' : State} :
    Spec.SameSound s s' ↔ ∃ vs, s' = s.setVoices vs ∧ List.Forall₂ (Spec.SameHeard s.cfg.voiceKind) s.voices vs := by
  constructor
  · rintro ⟨hslots, hrest⟩
    exact ⟨s'.voices, (congrArg (State.setVoices · s'.voices) hrest).symm, hslots⟩
  · rintro ⟨vs, rfl, hslots⟩
    exact ⟨hslots, rfl⟩

theorem stepBip_setVoices (s : State) (vs : List Voice) : (s.setVoices vs).stepBip = s.stepBip.setVoices vs := by
  rw [stepBip_eq, stepBip_eq, State.setVoices_bipCount]
  split <;> rfl

/-- An operation on slots that are heard alike answers slots that are heard alike, and all else the same. -/
theorem exec_setVoices {i : Instr} {s t : State} {vs : List Voice}
    (hvs : List.Forall₂ (Spec.SameHeard s.cfg.voiceKind) s.voices vs) (h : exec i s = .next t) :
    ∃ ws, exec i (s.setVoices vs) = .next (t.setVoices ws) ∧
      List.Forall₂ (Spec.SameHeard s.cfg.voiceKind) t.voices ws := by
  cases i with
  | nop | setFm | setMvol | bip | clrErr =>
    cases h
    exact ⟨vs, rfl, hvs⟩
  | init =>
    cases h
    exact ⟨s.reinit.voices, rfl, List.forall₂_same.mpr fun _ _ => sameHeard_self⟩
  | noteOn n =>
    obtain ⟨rfl, rfl⟩ | ⟨v, hn, hv, rfl⟩ := exec_noteOn_eq_next h
    · exact ⟨vs, rfl, hvs⟩
    have hfree : firstFree vs = firstFree s.voices := (firstFree_congr hvs).symm
    have hslot : slotFor (s.setVoices vs) = slotFor s := by rw [slotFor, State.setVoices_voices, hfree]; rfl
    have hrr : rrAfter (s.setVoices vs) = rrAfter s := by rw [rrAfter, State.setVoices_voices, hfree]; rfl
    obtain ⟨w, hw⟩ := exists_getElem?_of_forall₂ hvs hv
    refine ⟨vs.set (slotFor s) (startNote s n v), ?_, forall₂_set hvs sameHeard_self _⟩
    rw [exec_noteOn (v := w) hn (hslot ▸ hw), hslot, hrr]
    rfl
  | noteOff n =>
    obtain ⟨rfl, rfl⟩ | ⟨hn, rfl⟩ := exec_noteOff_eq_next h
    · exact ⟨vs, rfl, hvs⟩
    · exact ⟨_, exec_noteOff hn, sameHeard_map hvs fun _ _ hvw => sameHeard_releaseNote hvw n⟩
  | allOff =>
    cases h
    exact ⟨_, rfl, sameHeard_map hvs fun _ _ => sameHeard_free⟩
  | tick =>
    cases h
    exact ⟨_, rfl, sameHeard_map hvs fun _ _ => sameHeard_tickVoice⟩
  | sample =>
    obtain ⟨S, hS, rfl⟩ := exec_sample_eq_next h
    rw [voiceSum_congr hvs] at hS
    refine ⟨_, ?_, sameHeard_map hvs fun _ _ => sameHeard_sampleVoice⟩
    rw [exec_sample (s := s.setVoices vs) hS, stepBip_setVoices]
    rfl

/-- Settles O26: states heard alike differ in their slots alone, and `exec_setVoices` follows the slots. -/
theorem unusedSlotFieldsAreNeverHeard : Obligations.UnusedSlotFieldsAreNeverHeard := by
  intro i s s' t hsame h
  obtain ⟨vs, rfl, hvs⟩ := sameSound_iff.mp hsame
  obtain ⟨ws, hws, hslots⟩ := exec_setVoices hvs h
  rw [← exec_cfg h] at hslots
  exact ⟨_, hws, sameSound_iff.mpr ⟨ws, rfl, hslots⟩, rfl⟩

end Sys2Proof.Machine

namespace Sys2Proof.Machine

/-! ## 10_state.md: the writers of the registers (R21 to R28, R31 to R36) -/

theorem full_of_rrAfter_ne {s : State} (h : rrAfter s ≠ s.rr) : ∀ v ∈ s.voices, v.note ≠ 0#8 := by
  rw [rrAfter] at h
  split at h
  · exact absurd rfl h
  · exact firstFree_none.mp ‹_›

theorem stepBip_bipPhase_ne {s : State} (h : s.stepBip.bipPhase ≠ s.bipPhase) : s.bipCount ≠ 0#16 := by
  intro hzero
  rw [stepBip_bipPhase, if_pos hzero] at h
  exact h rfl

/-- Settles O24: each operation but INIT is a few writes, and the setter lemmas say which registers they leave. -/
theorem globalRegistersHaveOnlyTheirWriters : Obligations.GlobalRegistersHaveOnlyTheirWriters := by
  intro i s t hinit h
  cases i with
  | init => exact absurd rfl hinit
  | noteOn n =>
    obtain ⟨rfl, rfl⟩ | ⟨v, hn, hv, rfl⟩ := exec_noteOn_eq_next h
    · simp
    · simpa using full_of_rrAfter_ne
  | noteOff n =>
    obtain ⟨rfl, rfl⟩ | ⟨hn, rfl⟩ := exec_noteOff_eq_next h <;> simp
  | sample =>
    obtain ⟨S, hS, rfl⟩ := exec_sample_eq_next h
    simpa using stepBip_bipPhase_ne
  | _ =>
    cases h
    simp

/-! ### The slots -/

/-- What an operation other than INIT does to one slot. -/
theorem exec_slot {i : Instr} {s t : State} {j : Nat} {v w : Voice} (hinit : i ≠ .init) (h : exec i s = .next t)
    (hv : s.voices[j]? = some v) (hw : t.voices[j]? = some w) :
    w = v ∨ (∃ n, i = .noteOn n ∧ w = startNote s n v) ∨ (∃ n, i = .noteOff n ∧ w = releaseNote n v) ∨
      (i = .allOff ∧ w = v.free) ∨ (i = .tick ∧ w = tickVoice s.cfg v) ∨ (i = .sample ∧ w = sampleVoice s.cfg v) := by
  have hmap : ∀ f : Voice → Voice, t.voices = s.voices.map f → w = f v := fun f hf => by
    rw [hf, List.getElem?_map, hv] at hw
    exact (Option.some.inj hw).symm
  have hkeep : t.voices = s.voices → w = v := fun ht => by
    rw [ht, hv] at hw
    exact (Option.some.inj hw).symm
  cases i with
  | init => exact absurd rfl hinit
  | noteOn n =>
    obtain ⟨rfl, rfl⟩ | ⟨u, hn, hu, rfl⟩ := exec_noteOn_eq_next h
    · exact .inl (hkeep rfl)
    change (s.voices.set (slotFor s) (startNote s n u))[j]? = some w at hw
    by_cases hj : slotFor s = j
    · subst hj
      rw [List.getElem?_set_self (List.getElem?_eq_some_iff.mp hv).1] at hw
      exact .inr (.inl ⟨n, rfl, (Option.some.inj hw).symm⟩)
    · rw [List.getElem?_set_ne hj, hv] at hw
      exact .inl (Option.some.inj hw).symm
  | noteOff n =>
    obtain ⟨rfl, rfl⟩ | ⟨hn, rfl⟩ := exec_noteOff_eq_next h
    · exact .inl (hkeep rfl)
    · exact .inr (.inr (.inl ⟨n, rfl, hmap _ rfl⟩))
  | allOff =>
    cases h
    exact .inr (.inr (.inr (.inl ⟨rfl, hmap _ rfl⟩)))
  | tick =>
    cases h
    exact .inr (.inr (.inr (.inr (.inl ⟨rfl, hmap _ rfl⟩))))
  | sample =>
    obtain ⟨S, hS, rfl⟩ := exec_sample_eq_next h
    exact .inr (.inr (.inr (.inr (.inr ⟨rfl, hmap _ rfl⟩))))
  | _ =>
    cases h
    exact .inl (hkeep rfl)

/-- TICK writes the envelopes and the level of a slot, and can clear its `note`. -/
theorem exists_tickVoice_eq (c : Config) (v : Voice) : ∃ (e m : Env) (l n : BitVec 8), (n = v.note ∨ n = 0#8) ∧
    tickVoice c v = { v with env := e, modEnv := m, level := l, note := n } := by
  rcases tickVoice_cases c v with h | ⟨-, h⟩ | ⟨-, h⟩ | ⟨-, -, h⟩
  · exact ⟨_, _, _, _, .inl rfl, h⟩
  · rw [Voice.retireIdle_eq] at h
    exact ⟨_, _, _, _, by split <;> simp, h⟩
  · rw [Voice.retireIdle_eq] at h
    exact ⟨_, _, _, _, by split <;> simp, h⟩
  · split at h
    · exact ⟨_, _, _, _, .inr rfl, h⟩
    · exact ⟨_, _, _, _, .inl rfl, h⟩

/-- Settles O25: an operation on a slot is one of five, and each writes its own fields. -/
theorem slotFieldsHaveOnlyTheirWriters : Obligations.SlotFieldsHaveOnlyTheirWriters := by
  intro i s t j v w hinit h hv hw
  rcases exec_slot hinit h hv hw with rfl | ⟨n, rfl, rfl⟩ | ⟨n, rfl, rfl⟩ | ⟨rfl, rfl⟩ | ⟨rfl, rfl⟩ | ⟨rfl, rfl⟩
  · simp
  · simp [startNote_note]
  · rcases releaseNote_cases v n with ⟨-, hrel⟩ | ⟨-, hrel⟩ <;> simp [hrel]
  · simp [Voice.free]
  · obtain ⟨e, m, l, n, rfl | rfl, htick⟩ := exists_tickVoice_eq s.cfg v <;> simp [htick]
  · simp

/-! ## 40_voice_commands.md: NOTE_ON (R100, R102, R103) -/

/-- Settles O31: NOTE_ON writes one slot, `rr` and the count of free values. -/
theorem noteOnLeavesEverythingElse : Obligations.NoteOnLeavesEverythingElse := by
  intro s t n h
  obtain ⟨-, rfl⟩ | ⟨v, -, -, rfl⟩ := exec_noteOn_eq_next h
  · simp
  · refine ⟨fun j hj => List.getElem?_set_ne hj.symm, List.length_set, ?_⟩
    simp

/-- The selection of R102 determines the slot and the pointer. -/
theorem slotFor_of_selects {s : State} {i : Nat} {rr' : BitVec 4} (hl : s.cfg.Legal) (h : Spec.Selects s i rr') :
    slotFor s = i ∧ rrAfter s = rr' := by
  obtain ⟨⟨v, hv, hnote⟩, hleast, rfl⟩ | ⟨hfull, rfl, hrr⟩ := h
  · cases hfree : firstFree s.voices with
    | none => exact absurd hnote (firstFree_none.mp hfree v (List.mem_of_getElem? hv))
    | some j =>
      obtain ⟨⟨u, hu, hfreeu⟩, hbefore⟩ := firstFree_some hfree
      have hji : j = i := by
        rcases Nat.lt_trichotomy j i with hlt | heq | hlt
        · exact absurd hfreeu (hleast j hlt u hu)
        · exact heq
        · exact absurd hnote (hbefore i hlt v hv)
      simp [slotFor, rrAfter, hfree, hji]
  · refine ⟨slotFor_of_full hfull, BitVec.eq_of_toNat_eq ?_⟩
    rw [rrAfter_of_full hfull, toNat_nextRr hl, hrr]

theorem toNat_noteStep (c : Config) (n : BitVec 7) :
    (noteStep c n).toNat = semiRead c (Fin.ofNat 12 n.toNat) * 2 ^ (n.toNat / 12) % 2 ^ 16 :=
  BitVec.toNat_ofNat ..

theorem toNat_modStepOf (c : Config) (step : BitVec 16) (hr : BitVec 8) :
    (modStepOf c step hr).toNat = step.toNat * hr.toNat / 2 ^ c.hrFrac % 2 ^ 16 := by
  rw [modStepOf, fdiv_eq_div, BitVec.toNat_ofInt]
  norm_cast

/-- Settles O30: the slot is the one R102 selects, and `slotInit` writes each field as R103 says. -/
theorem noteOnSelectsASlotAndInitialisesIt : Obligations.NoteOnSelectsASlotAndInitialisesIt := by
  intro s n i v rr' hl hn hsel hv
  obtain ⟨hslot, hrr⟩ := slotFor_of_selects hl hsel
  have hloop := hl.loop
  have hlen := hl.wtLen
  have hlevel := hl.levelMax
  have hmaxv := hl.maxv_le
  obtain ⟨hend, habove⟩ := toNat_loopEndReg hl s.freeCount
  refine ⟨_, startNote s n v, exec_noteOn hn (hslot ▸ hv), hslot ▸ rfl, hrr, toNat_noteStep s.cfg n, rfl, rfl,
    toNat_modStepOf .., rfl, rfl, rfl, ?_, rfl, ?_, hend, habove, ?_, rfl, ?_⟩
  · exact BitVec.toNat_setWidth_of_le (by decide)
  · exact Nat.mod_eq_of_lt (by omega)
  · exact Nat.mod_eq_of_lt (by omega)
  · exact BitVec.toNat_setWidth_of_le (by decide)

end Sys2Proof.Machine

namespace Sys2Proof.Machine

/-! ## 45_envelope_tick.md: TICKs one after another (R150, R152) -/

theorem execTimes_tick (k : Nat) (s : State) :
    execTimes .tick k s = .next (s.setVoices (s.voices.map (tickVoice s.cfg)^[k])) := by
  induction k generalizing s with
  | zero =>
    rw [Function.iterate_zero, List.map_id]
    rfl
  | succ k ih =>
    rw [execTimes, exec_tick, andThen_next, ih, Function.iterate_succ, ← List.map_map]
    rfl

/-- After `k` TICKs a slot is its `k`-fold tick. -/
theorem exists_execTimes_tick {s : State} {i : Nat} {u : Voice} (hu : s.voices[i]? = some u) (k : Nat) :
    ∃ t, execTimes .tick k s = .next t ∧ t.voices[i]? = some ((tickVoice s.cfg)^[k] u) := by
  refine ⟨_, execTimes_tick k s, ?_⟩
  rw [State.setVoices_voices, List.getElem?_map, hu, Option.map_some]

/-- A slot after the NOTE_OFF of its note (R109). -/
def Voice.released (v : Voice) : Voice :=
  { v with env := ⟨.release, v.env.vel⟩, modEnv := ⟨.release, v.modEnv.vel⟩, rel := true }

theorem releaseNote_of_holder {n : BitVec 7} {v : Voice} (hnote : v.note = n.setWidth 8) : releaseNote n v = v.released :=
  if_pos hnote

theorem getElem?_map_releaseNote {vs : List Voice} {n : BitVec 7} {i : Nat} {v : Voice} (hv : vs[i]? = some v)
    (hnote : v.note = n.setWidth 8) : (vs.map (releaseNote n))[i]? = some v.released := by
  rw [List.getElem?_map, hv, Option.map_some, releaseNote_of_holder hnote]

/-! ### The release of a SINE or FM voice -/

section release
variable {c : Config} {u : Voice}

theorem tickVoice_env_note (hk : c.voiceKind ≠ .wavetable) (hnote : u.note ≠ 0#8) :
    (tickVoice c u).env = advance c.maxv c.envCarrier u.env ∧
      (tickVoice c u).note = if (advance c.maxv c.envCarrier u.env).state = .idle then 0#8 else u.note := by
  rw [tickVoice_eq_tickSlot, Spec.tickSlot, if_neg hnote]
  cases hkind : c.voiceKind with
  | sine | fm => exact ⟨rfl, rfl⟩
  | wavetable => exact absurd hkind hk

theorem lt_releaseTicks_iff {x r k : Nat} (hr : 1 ≤ r) : k < Spec.releaseTicks x r ↔ k = 0 ∨ k * r < x := by
  rw [← lt_ceilDiv_iff hr, ← Nat.lt_one_iff]
  exact lt_max_iff

variable (hl : c.Legal) (hk : c.voiceKind ≠ .wavetable) (hnote : u.note ≠ 0#8) (hst : u.env.state = .release)
include hl hk hnote hst

theorem tickVoice_release_of_lt (h : c.envCarrier.r < u.env.vel.toNat) :
    (tickVoice c u).note = u.note ∧ (tickVoice c u).env.state = .release ∧
      (tickVoice c u).env.vel.toNat = u.env.vel.toNat - c.envCarrier.r := by
  obtain ⟨henv, hnext⟩ := tickVoice_env_note hk hnote
  obtain ⟨hstate, hvel⟩ := advance_release_of_lt hl.maxv_le hl.carrier hst h
  rw [hnext, henv, hstate]
  exact ⟨rfl, rfl, hvel⟩

theorem tickVoice_release_of_le (h : u.env.vel.toNat ≤ c.envCarrier.r) :
    (tickVoice c u).note = 0#8 ∧ (tickVoice c u).env = ⟨.idle, 0#8⟩ := by
  obtain ⟨henv, hnext⟩ := tickVoice_env_note hk hnote
  rw [hnext, henv, advance_release_of_le hl.maxv_le hl.carrier hst h]
  exact ⟨rfl, rfl⟩

/-- Before its release time the voice sounds, one `r` lower at each tick. -/
theorem iterate_tickVoice_release {k : Nat} (h : k < Spec.releaseTicks u.env.vel.toNat c.envCarrier.r) :
    ((tickVoice c)^[k] u).note = u.note ∧ ((tickVoice c)^[k] u).env.state = .release ∧
      ((tickVoice c)^[k] u).env.vel.toNat = u.env.vel.toNat - k * c.envCarrier.r := by
  rw [lt_releaseTicks_iff hl.carrier.release.1] at h
  induction k with
  | zero => simp [hst]
  | succ k ih =>
    rw [Nat.add_one_mul] at h ⊢
    obtain ⟨hn, hstate, hvel⟩ := ih (by omega)
    rw [Function.iterate_succ_apply', ← hn, ← Nat.sub_sub, ← hvel]
    exact tickVoice_release_of_lt hl hk (hn ▸ hnote) hstate (by omega)

/-- The last tick of the release frees the voice, and a free voice is not advanced. -/
theorem iterate_tickVoice_released {k : Nat} (h : Spec.releaseTicks u.env.vel.toNat c.envCarrier.r ≤ k) :
    ((tickVoice c)^[k] u).note = 0#8 ∧ ((tickVoice c)^[k] u).env = ⟨.idle, 0#8⟩ := by
  have hr := hl.carrier.release.1
  obtain ⟨j, hj⟩ : ∃ j, Spec.releaseTicks u.env.vel.toNat c.envCarrier.r = j + 1 :=
    Nat.exists_eq_add_one.mpr (by rw [Spec.releaseTicks]; omega)
  have hlast : u.env.vel.toNat ≤ (j + 1) * c.envCarrier.r := by
    have hnot := mt (lt_releaseTicks_iff hr).mpr hj.le.not_gt
    omega
  obtain ⟨hn, hstate, hvel⟩ := iterate_tickVoice_release hl hk hnote hst (k := j) (by omega)
  rw [Nat.add_one_mul] at hlast
  obtain ⟨hfree, hidle⟩ := tickVoice_release_of_le hl hk (u := (tickVoice c)^[j] u) (hn ▸ hnote) hstate (by omega)
  obtain ⟨m, rfl⟩ := Nat.exists_eq_add_of_le' (hj ▸ h)
  rw [Function.iterate_add_apply, Function.iterate_succ_apply', Function.iterate_fixed (tickVoice_of_free c _ hfree)]
  exact ⟨hfree, hidle⟩

end release

/-- Settles O43: the released slot is ticked to its release time, and stays free after it. -/
theorem releasedVoiceIsFreedAfterExactlyItsTicks : Obligations.ReleasedVoiceIsFreedAfterExactlyItsTicks := by
  intro s n i v hl hk hn hv hnote
  have hactive : v.note ≠ 0#8 := hnote ▸ setWidth_note_ne_zero hn
  refine ⟨_, exec_noteOff hn, fun k => ?_⟩
  obtain ⟨t, ht, hslot⟩ := exists_execTimes_tick (s := s.setVoices _) (getElem?_map_releaseNote hv hnote) k
  exact ⟨t, _, ht, hslot, iterate_tickVoice_release (u := v.released) hl hk hactive rfl,
    iterate_tickVoice_released (u := v.released) hl hk hactive rfl⟩

/-! ### The decay of a wavetable voice -/

section decay
variable {c : Config} {u : Voice} (hk : c.voiceKind = .wavetable)
include hk

/-- Without a release a wavetable slot is left as it is. -/
theorem tickVoice_of_held (hrel : u.rel = false) : tickVoice c u = u := by
  rw [tickVoice, hk]
  split
  · rw [tickLevel_eq, hrel]
    rfl
  · rfl

theorem tickVoice_of_rel (hnote : u.note ≠ 0#8) (hrel : u.rel = true) : tickVoice c u =
    { u with level := BitVec.ofNat 8 (u.level.toNat - c.wtDecay),
             note := if u.level.toNat - c.wtDecay = 0 then 0#8 else u.note } := by
  rw [tickVoice, if_pos (u.active_iff.mpr hnote), hk]
  exact (tickLevel_eq c u).trans (if_pos hrel)

/-- A released wavetable slot loses WT_DECAY at each tick, and its note with the last of its level. -/
theorem iterate_tickVoice_decay (hnote : u.note ≠ 0#8) (hrel : u.rel = true) (hlevel : u.level.toNat ≠ 0) (k : Nat) :
    ((tickVoice c)^[k] u).rel = true ∧ ((tickVoice c)^[k] u).level.toNat = u.level.toNat - k * c.wtDecay ∧
      ((tickVoice c)^[k] u).note = if u.level.toNat - k * c.wtDecay = 0 then 0#8 else u.note := by
  induction k with
  | zero => simp [hrel, hlevel]
  | succ k ih =>
    obtain ⟨hrelk, hlevelk, hnotek⟩ := ih
    rw [Function.iterate_succ_apply', Nat.add_one_mul, ← Nat.sub_sub, ← hlevelk]
    rw [← hlevelk] at hnotek
    by_cases hzero : ((tickVoice c)^[k] u).level.toNat = 0
    · rw [if_pos hzero] at hnotek
      rw [tickVoice_of_free c _ hnotek, hzero, Nat.zero_sub]
      exact ⟨hrelk, rfl, hnotek⟩
    · rw [if_neg hzero] at hnotek
      have hlt := ((tickVoice c)^[k] u).level.isLt
      rw [tickVoice_of_rel hk (hnotek ▸ hnote) hrelk, hnotek]
      refine ⟨hrelk, ?_, rfl⟩
      exact Nat.mod_eq_of_lt (by omega)

end decay

/-- Settles O44: a held slot is left alone, and a released one is ticked down to level 0. -/
theorem wavetableLevelDecaysLinearlyToItsRelease : Obligations.WavetableLevelDecaysLinearlyToItsRelease := by
  intro s n i v hl hk hn hv hnote hlevel
  have hdecay := hl.wtDecay.1
  have hactive : v.note ≠ 0#8 := hnote ▸ setWidth_note_ne_zero hn
  have hpos : v.level.toNat ≠ 0 := fun h => hlevel (BitVec.eq_of_toNat_eq h)
  refine ⟨fun hheld k => ?_, _, exec_noteOff hn, fun k => ?_⟩
  · obtain ⟨t, ht, hslot⟩ := exists_execTimes_tick hv k
    rw [Function.iterate_fixed (tickVoice_of_held hk hheld)] at hslot
    exact ⟨t, ht, hslot⟩
  · obtain ⟨t, ht, hslot⟩ := exists_execTimes_tick (s := s.setVoices _) (getElem?_map_releaseNote hv hnote) k
    obtain ⟨-, hlevelk, hnotek⟩ := iterate_tickVoice_decay (u := v.released) hk hactive rfl hpos k
    refine ⟨t, _, ht, hslot, hlevelk, fun h => ?_, fun h => ?_⟩
    · rw [lt_ceilDiv_iff hdecay] at h
      exact hnotek.trans (if_neg (Nat.sub_ne_zero_of_lt h))
    · rw [ceilDiv_le_iff hdecay] at h
      exact hnotek.trans (if_pos (Nat.sub_eq_zero_of_le h))

end Sys2Proof.Machine

namespace Sys2Proof.Machine

/-! ## 46_sample_datapath.md: SAMPLEs one after another, the slots in any order, and the silent level -/

/-! ### The bip (R174) -/

section bip
variable {s : State} (hs : Sound s)
include hs

/-- One SAMPLE counts the bip down and moves its phase while it sounds. -/
theorem exec_sample_bip : ∃ t, exec .sample s = .next t ∧ t.cfg = s.cfg ∧ t.bipCount.toNat = s.bipCount.toNat - 1 ∧
    t.bipPhase.toNat = if s.bipCount = 0#16 then s.bipPhase.toNat else (s.bipPhase.toNat + s.cfg.bipStep) % 2 ^ 16 :=
  ⟨_, exec_sample (voiceSum_eq_contrib hs.readable), stepBip_cfg s, toNat_stepBip_bipCount s, toNat_stepBip_bipPhase s⟩

theorem execTimes_sample_bip (k : Nat) : ∃ t, execTimes .sample k s = .next t ∧ t.cfg = s.cfg ∧
    t.bipCount.toNat = s.bipCount.toNat - k ∧
    t.bipPhase.toNat = (s.bipPhase.toNat + min k s.bipCount.toNat * s.cfg.bipStep) % 2 ^ 16 := by
  induction k generalizing s with
  | zero =>
    refine ⟨s, rfl, rfl, rfl, ?_⟩
    rw [Nat.zero_min, Nat.zero_mul, Nat.add_zero, Nat.mod_eq_of_lt s.bipPhase.isLt]
  | succ k ih =>
    obtain ⟨u, hu, hcfg, hcount, hphase⟩ := exec_sample_bip hs
    obtain ⟨t, ht, htcfg, htcount, htphase⟩ := ih (hs.exec_next hu)
    refine ⟨t, by rw [execTimes, hu, andThen_next, ht], htcfg.trans hcfg, by omega, ?_⟩
    rw [htphase, hphase, hcount, hcfg]
    split
    case isTrue hzero => simp [hzero]
    case isFalse hzero =>
      have hpos : 1 ≤ s.bipCount.toNat := by bv_omega
      have hmin : min (k + 1) s.bipCount.toNat = min k (s.bipCount.toNat - 1) + 1 := by omega
      rw [Nat.mod_add_mod, hmin, Nat.add_one_mul, Nat.add_assoc, Nat.add_comm s.cfg.bipStep]

end bip

/-- Settles O50: after the BIP the SAMPLEs count down to 0, where the tone ends. -/
theorem bipSoundsForExactlyItsSamples : Obligations.BipSoundsForExactlyItsSamples := by
  intro s d hs
  refine ⟨s.setBipCount d, exec_bip d s, fun k => ?_⟩
  obtain ⟨t, ht, hcfg, hcount, hphase⟩ := execTimes_sample_bip (s := s.setBipCount d) { hs with } k
  refine ⟨t, ht, hcount, hphase, fun h => ?_, fun h => ?_⟩ <;> rw [State.setBipCount_bipCount] at hcount
  · have hsounds : t.bipCount ≠ 0#16 := by bv_omega
    rw [bipTone_eq, if_neg hsounds, hcfg]
    rfl
  · have hends : t.bipCount = 0#16 := by bv_omega
    rw [bipTone_eq, if_pos hends]

/-! ### The cursor (R164) -/

theorem toNat_loopAdvance (v : Voice) : (loopAdvance v).toNat =
    if (v.samplePos.toNat + v.sampleStep.toNat) % 2 ^ 32 / 2 ^ 8 ≥ v.loopEnd.toNat then v.loopStart.toNat * 2 ^ 8
    else (v.samplePos.toNat + v.sampleStep.toNat) % 2 ^ 32 := by
  have hstart := v.loopStart.isLt
  rw [loopAdvance_eq, BitVec.toNat_ofNat, Nat.mod_eq_of_lt]
  split <;> omega

/-- Settles O51: the two cases of the cursor's pseudocode. -/
theorem wavetableCursorStaysInItsLoop : Obligations.WavetableCursorStaysInItsLoop := by
  intro v hloop
  rw [toNat_loopAdvance]
  refine ⟨?_, fun h => if_pos h, fun h => if_neg (Nat.not_le.mpr h)⟩
  split <;> omega

/-! ### The slots in any order (R165) -/

theorem voiceSum_perm {c : Config} {vs ws : List Voice} (h : vs.Perm ws) : voiceSum c vs = voiceSum c ws := by
  induction h with
  | nil => rfl
  | cons v _ ih => rw [voiceSum_cons, voiceSum_cons, ih]
  | swap v w vs =>
    simp only [voiceSum_cons]
    cases contribution c v <;> cases contribution c w <;> cases voiceSum c vs <;> simp [Int.add_left_comm]
  | trans _ _ ih₁ ih₂ => exact ih₁.trans ih₂

/-- Settles O52: the sum is the same in any order, and every slot is advanced by itself. -/
theorem slotOrderDoesNotChangeTheSample : Obligations.SlotOrderDoesNotChangeTheSample := by
  intro s t vs hperm h
  obtain ⟨S, hS, rfl⟩ := exec_sample_eq_next h
  rw [voiceSum_perm hperm] at hS
  refine ⟨_, exec_sample (s := s.setVoices vs) hS, rfl, hperm.map _, ?_⟩
  rw [stepBip_setVoices]
  rfl

/-! ### Levels near the silent one (R112, R116) -/

/-- An attenuated mix whose offset value is in range is neither clamped nor wrapped. -/
theorem level_of_fits {c : Config} {ma : Int} (hlo : 0 ≤ ma + 2 ^ (c.outW - 1)) (hhi : ma + 2 ^ (c.outW - 1) < 2 ^ c.outW) :
    Spec.level c ma = ma + 2 ^ (c.outW - 1) := by
  rw [Spec.level]
  cases c.outOverflow with
  | saturate => dsimp only; omega
  | wrap => exact Int.emod_eq_of_lt hlo hhi

theorem toNat_outputLevel_zero {c : Config} (hl : c.Legal) : (outputLevel c 0).toNat = 2 ^ (c.outW - 1) := by
  have hlt : (2 : Int) ^ (c.outW - 1) < 2 ^ c.outW := by exact_mod_cast hl.outOffset.2
  have hpos : (0 : Int) < 2 ^ (c.outW - 1) := by positivity
  have hlevel := toNat_outputLevel hl 0
  rw [level_of_fits (by omega) (by omega), Int.zero_add] at hlevel
  exact_mod_cast hlevel

/-- No voice and no bip mix to 0, whatever the shift. -/
theorem attenuated_silent {s : State} (h : s.bipCount = 0#16) : attenuated s 0 = 0 := by
  rw [attenuated, bipTone_eq, if_pos h, fdiv_eq_div, Int.zero_ediv, Int.add_zero, asr_zero]

/-- Settles O53: free voices and a silent bip mix to 0. -/
theorem sampleAfterAllOffIsSilent : Obligations.SampleAfterAllOffIsSilent := by
  intro s hl hbip
  have hfree : ∀ v ∈ s.voices.map Voice.free, v.note = 0#8 := by simp
  have hsum := voiceSum_of_free s.cfg hfree
  refine ⟨_, _, exec_allOff s, exec_sample hsum, ?_⟩
  rw [State.setSeqTick_out, State.setOut_out, attenuated_silent (s := s.setVoices (s.voices.map Voice.free)) hbip]
  exact toNat_outputLevel_zero hl

/-- What a voice contributes is 0 or a signed byte scaled by one of its amplitudes. -/
theorem exists_scaled_of_contribution {c : Config} {v : Voice} {x : Int} (h : contribution c v = some x) :
    x = 0 ∨ ∃ (b : Int) (amp : BitVec 8), (-128 ≤ b ∧ b ≤ 127) ∧ x = scaled c b amp := by
  rw [contribution] at h
  split at h
  case isFalse => exact .inl (Option.some.inj h).symm
  case isTrue =>
    right
    split at h
    case h_1 | h_2 => exact ⟨_, _, sineRead_mem c _, (Option.some.inj h).symm⟩
    case h_3 =>
      obtain ⟨b, hb, rfl⟩ := Option.map_eq_some_iff.mp h
      exact ⟨b, _, wtRead_mem hb, rfl⟩

/-- With the full scale of 8 bits no amplitude exceeds MAXV, whatever the slot holds. -/
theorem contribution_mem_of_full_scale {c : Config} (hl : c.Legal) (hm : c.maxv = 255) {v : Voice} {x : Int}
    (h : contribution c v = some x) : -128 ≤ x ∧ x ≤ 127 := by
  obtain rfl | ⟨b, amp, hb, rfl⟩ := exists_scaled_of_contribution h
  · omega
  · exact scaled_mem hl hb (hm ▸ Nat.le_of_lt_succ amp.isLt)

theorem voiceSum_mem_of_full_scale {s : State} (hl : s.cfg.Legal) (hm : s.cfg.maxv = 255) {S : Int}
    (h : voiceSum s.cfg s.voices = some S) : s.voices.length * (-128) ≤ S ∧ S ≤ s.voices.length * 127 := by
  have hread : Spec.Readable s := (voiceSum_isSome_iff_readable s).mp (by rw [h]; rfl)
  have hbound : ∀ x ∈ s.voices.map (Spec.contrib s.cfg), -128 ≤ x ∧ x ≤ 127 := by
    intro x hx
    obtain ⟨v, hv, rfl⟩ := List.mem_map.mp hx
    exact contribution_mem_of_full_scale hl hm (contribution_eq_contrib fun hk => hread hk v hv)
  rw [voiceSum_eq_contrib hread] at h
  obtain rfl := Option.some.inj h
  have hlo := List.card_nsmul_le_sum _ (-128) fun x hx => (hbound x hx).1
  have hhi := List.sum_le_card_nsmul _ 127 fun x hx => (hbound x hx).2
  rw [List.length_map, nsmul_eq_mul] at hlo hhi
  exact ⟨hlo, hhi⟩

/-- A shift by 8 or more leaves only the sign of a mix total (R176). -/
theorem asr_of_small {T : Int} {k : Nat} (hk : 8 ≤ k) (hT : -256 ≤ T ∧ T < 256) : asr T k = -1 ∨ asr T k = 0 := by
  have hpow : 2 ^ 8 ≤ 2 ^ k := Nat.pow_le_pow_right (by decide) hk
  by_cases hneg : T < 0
  · exact .inl (asr_eq_neg_one T k hneg (by omega))
  · right
    have hpow' : (256 : Int) ≤ 2 ^ k := by exact_mod_cast hpow
    rw [asr_eq_div, Int.ediv_eq_zero_of_lt (by omega) (by omega)]

/-- Settles O54: the mix total lies in −256 to 254, so the shift leaves −1 or 0, one below the silent level or on it. -/
theorem strongAttenuationLeavesOnlyTwoLevels : Obligations.StrongAttenuationLeavesOnlyTwoLevels := by
  intro s t k hcfg hlen hmvol h
  have hl : s.cfg.Legal := hcfg ▸ rc0_legal k
  have hw : s.cfg.outW = 8 := by rw [hcfg]; rfl
  have hn : s.cfg.nVoices = 4 := by rw [hcfg]; rfl
  obtain ⟨S, hS, rfl⟩ := exec_sample_eq_next h
  have hsum := voiceSum_mem_of_full_scale hl (by rw [hcfg]; rfl) hS
  rw [hlen] at hsum
  have hmean := mean_mem (n := s.cfg.nVoices) (by omega) (hn ▸ hsum)
  have hbip := bipTone_mem s
  have hatt : attenuated s S = -1 ∨ attenuated s S = 0 := asr_of_small hmvol (by omega)
  have hout := toNat_outputLevel hl (attenuated s S)
  rw [level_of_fits (by rw [hw]; omega) (by rw [hw]; omega), hw] at hout
  change (outputLevel s.cfg (attenuated s S)).toNat = 127 ∨ (outputLevel s.cfg (attenuated s S)).toNat = 128
  omega

end Sys2Proof.Machine

namespace Sys2Proof

/-! ## 20_memory.md: the read-only tables (R61 to R63) -/

theorem toInt_eq_sext8 (b : Byte) : b.toInt = Spec.sext8 b := by
  rw [BitVec.toInt_eq_toNat_cond, Spec.sext8]
  split <;> split <;> omega

namespace Memory

/-- A canonical list is one above the address of its head. -/
theorem wf_cons {p : Host.Cell} {m : List Host.Cell} (h : wf (p :: m) = true) : wf m = true ∧ ∀ q ∈ m, p.1 < q.1 := by
  induction m generalizing p with
  | nil => exact ⟨rfl, nofun⟩
  | cons q m ih =>
    simp only [wf, Bool.and_eq_true, decide_eq_true_eq] at h
    obtain ⟨⟨-, hlt⟩, htail⟩ := h
    refine ⟨htail, List.forall_mem_cons.mpr ⟨hlt, fun r hr => ?_⟩⟩
    exact hlt.trans ((ih htail).2 r hr)

theorem read_of_mem {m : List Host.Cell} (h : wf m = true) {a : Nat} {x : Byte} (hx : (a, x) ∈ m) : read m a = x := by
  induction m with
  | nil => cases hx
  | cons p m ih =>
    obtain ⟨htail, habove⟩ := wf_cons h
    obtain rfl | hx := List.mem_cons.mp hx
    · exact if_pos rfl
    · exact (if_neg (habove _ hx).ne').trans (ih htail hx)

theorem read_of_not_mem {m : List Host.Cell} {a : Nat} (hx : ∀ x : Byte, (a, x) ∉ m) : read m a = 0#8 := by
  induction m with
  | nil => rfl
  | cons p m ih =>
    have hne : a ≠ p.1 := by
      rintro rfl
      exact hx p.2 List.mem_cons_self
    exact (if_neg hne).trans (ih fun x hm => hx x (List.mem_cons_of_mem p hm))

end Memory
end Sys2Proof

namespace Sys2Proof.Machine

theorem envShift_of_maxv (c : Config) : (c.maxv = 127 → c.envShift = 7) ∧ (c.maxv = 255 → c.envShift = 8) := by
  constructor <;> intro h <;> rw [Config.envShift, h] <;> decide

/-- Settles O60: each read is an entry, and a canonical list holds one byte for an address. -/
theorem tableReadsAnswerTheirEntries : Obligations.TableReadsAnswerTheirEntries := by
  refine ⟨fun c i => toInt_eq_sext8 _, fun c k => rfl, fun c a => ⟨fun h => ?_, fun h => if_neg (Nat.not_lt.mpr h)⟩,
    fun m hm a => ⟨fun x => Memory.read_of_mem hm, Memory.read_of_not_mem⟩,
    fun xs => ⟨Memory.ofBytes_wf xs 0, fun a => ?_⟩, envShift_of_maxv, fun k => ⟨rfl, rfl, rfl, rfl, rfl, rfl, rfl⟩⟩
  · rw [wtRead_of_lt h, toInt_eq_sext8]
  · exact Memory.read_ofBytes xs 0 a

end Sys2Proof.Machine
